-- ==== Sys2Proof/Word.lean ====
section
/-!
DEFINITION. The word types of HUFFCORE: bytes, command words and bit sequences (00_scope.md R8 to R10).
-/

namespace Sys2Proof

/-- A byte; also a symbol of the one alphabet, 0 to 255 (R7 `SW` = 8, R16). -/
abbrev Byte := BitVec 8

/-- A command word (R100). -/
abbrev CmdWord := BitVec 16

/-- A bit sequence (R10): the first bit written to, or read from, a stream is the head of the list. -/
abbrev Bits := List Bool

end Sys2Proof
end

