-- ==== Sys2Proof/Config.lean ====
section
/-!
DEFINITION. What this hardware fixes (00_scope.md R7), the two switches the spec asks a model to keep (D9, D10), and the
free contents of the input buffer after reset (R49, U15). The OPEN parameters CW, AW, IBUF_CAP and OBUF_CAP are in
`Machine.Params`: they are part of a state and no step changes them.
-/

namespace Sys2Proof.Config

/-- `NSYM_MAX` (R7): the most distinct symbols. -/
def nsymMax : Nat := 256

/-- `NODE_CAP` (R7, D16): the entries of the node store. -/
def nodeCap : Nat := 511

/-- `CODE_MAX` (R7): the longest codeword in bits. -/
def codeMax : Nat := 255

/-- `SYM_MSB_FIRST` (D9): the eight bits of a symbol in a LEAF record stand most significant first. -/
def symMsbFirst : Bool := true

/-- `FIRST_REMOVED_IS_LEFT` (D10): of the two nodes a merge removes, the first becomes the left child. -/
def firstRemovedIsLeft : Bool := true

/-- FREE VALUE (R49, U15; log 4): the byte of IBUF that reset event number `epoch` leaves at byte index `address`, which the spec
calls unspecified. It has no body, so no proof can learn a value of it. -/
opaque ibufPowerOn (epoch address : Nat) : Byte

end Sys2Proof.Config
end

