-- ==== Sys2Proof/Syntax.lean ====
section
/-!
DEFINITION. The syntax of HUFFCORE: one constructor per row of spec/opcode_table.json, the 18 commands of R103 and the five
stream records of R107 to R112, and the five places an instruction can stand in (R114).
-/

namespace Sys2Proof

/-- The rows of the opcode table. -/
inductive Instr where
  /-- NOP, R200. -/
  | nop
  /-- CLR, R201. -/
  | clr
  /-- FADD, R131. -/
  | fadd (sym : Byte)
  /-- FADDT, R132. -/
  | faddt
  /-- FCNT, R134. -/
  | fcnt (sym : Byte)
  /-- BUILD, R140. -/
  | build
  /-- CWLK, R148. -/
  | cwlk (sym : Byte)
  /-- SERT, R160. -/
  | sert
  /-- ENC, R164. -/
  | enc (sym : Byte)
  /-- ENCT, R166. -/
  | enct
  /-- FIN, R168. -/
  | fin
  /-- LDHDR, R181. -/
  | ldhdr
  /-- DESER, R183. -/
  | deser
  /-- DEC1, R186. -/
  | dec1
  /-- DECALL, R188. -/
  | decall
  /-- REWIND, R190. -/
  | rewind
  /-- COMP, R203. -/
  | comp
  /-- DECOMP, R205. -/
  | decomp
  /-- HDR, R107: the header record, holding the byte as the stream gives it; `WellFormed` asks that it be 0 to 7. -/
  | hdr (v : Byte)
  /-- LEAF, R108. -/
  | leaf (sym : Byte)
  /-- INTERNAL, R109. -/
  | internal
  /-- PBIT, R111: one payload bit, `false` for 0 (left), `true` for 1 (right). -/
  | pbit (b : Bool)
  /-- PADBIT, R112: one padding bit. -/
  | padbit
  deriving DecidableEq, Repr

/-- Where an instruction stands, which alone tells how its bits are read (R101, R114): in CMD, or in one of the four parts of
the container. -/
inductive Place where
  | command
  | header
  | tree
  | payload
  | padding
  deriving DecidableEq, Repr

/-- The place an instruction stands in. -/
def Instr.place : Instr → Place
  | .nop | .clr | .fadd _ | .faddt | .fcnt _ | .build | .cwlk _ | .sert | .enc _ | .enct | .fin | .ldhdr | .deser
  | .dec1 | .decall | .rewind | .comp | .decomp => .command
  | .hdr _ => .header
  | .leaf _ => .tree
  | .internal => .tree
  | .pbit _ => .payload
  | .padbit => .padding

end Sys2Proof
end

