-- ==== Sys2Proof/WellFormed.lean ====
section
/-!
DEFINITION. The one check an instruction's fields need beyond their types: a header record's byte is 0 to 7 (R107, R115 (a)).
Every symbol operand is a byte, and every byte is a symbol (R102), so no other field can be ill formed.
-/

namespace Sys2Proof

/-- R107: "the five high bits are 0"; R115 (a): byte values 8 to 255 are reserved. -/
def WellFormed (i : Instr) : Bool :=
  match i with
  | .hdr v => decide (v.toNat < 8)
  | .nop | .clr | .fadd _ | .faddt | .fcnt _ | .build | .cwlk _ | .sert | .enc _ | .enct | .fin | .ldhdr | .deser
  | .dec1 | .decall | .rewind | .comp | .decomp | .leaf _ | .internal | .pbit _ | .padbit => true

end Sys2Proof
end

