-- ==== Sys2Proof/Decode.lean ====
section
/-!
DEFINITION. Bit sequences as numbers (R10, R11), decoding of command words (R101) and of stream records (R107 to R115), total
on any bits and rejecting by name, and after it the encoder, written from the same tables.
-/

namespace Sys2Proof

/-! ## Bit sequences and numbers -/

/-- `num` of R11: the number a bit sequence stands for, its first bit most significant. -/
def num (s : Bits) : Nat := s.foldl (fun n b => 2 * n + b.toNat) 0

/-- The `n` low bits of `v`, most significant first. -/
def bitsOfNat : Nat → Nat → Bits
  | 0, _ => []
  | n + 1, v => v.testBit n :: bitsOfNat n v

/-- `bits8` of R11: the eight bits of a byte, most significant first. -/
def bits8 (v : Byte) : Bits := bitsOfNat 8 v.toNat

/-- The eight symbol bits of a LEAF record (R108), in the order the switch of D9 says. -/
def symBits (sym : Byte) : Bits := if Config.symMsbFirst then bits8 sym else (bits8 sym).reverse

/-- The symbol that the eight bits of a LEAF record stand for (R108, R76). -/
def symOfBits (s : Bits) : Byte := BitVec.ofNat 8 (num (if Config.symMsbFirst then s else s.reverse))

/-! ## Decoding -/

/-- Format N (R100): the low byte must be zero. -/
def formatN (i : Instr) (lo : Byte) : Option Instr := if lo = 0#8 then some i else none

/-- The opcode map of R103: the opcode alone decides the format; an opcode not in the map is reserved (R104). -/
def decodeOp (op : Nat) (lo : Byte) : Option Instr :=
  match op with
  | 0x00 => formatN .nop lo
  | 0x01 => formatN .clr lo
  | 0x10 => some (.fadd lo)
  | 0x11 => formatN .faddt lo
  | 0x12 => some (.fcnt lo)
  | 0x20 => formatN .build lo
  | 0x21 => some (.cwlk lo)
  | 0x30 => formatN .sert lo
  | 0x31 => some (.enc lo)
  | 0x32 => formatN .enct lo
  | 0x33 => formatN .fin lo
  | 0x40 => formatN .ldhdr lo
  | 0x41 => formatN .deser lo
  | 0x42 => formatN .dec1 lo
  | 0x43 => formatN .decall lo
  | 0x44 => formatN .rewind lo
  | 0x50 => formatN .comp lo
  | 0x51 => formatN .decomp lo
  | _ => none

/-- R101: the command a word written to CMD encodes; `none` is an illegal word. -/
def decodeCommand (w : CmdWord) : Option Instr := decodeOp (w >>> 8).toNat (w.setWidth 8)

/-- Why bits are no instruction where they stand. -/
inductive Rejection where
  /-- No legal command word (R104). -/
  | illegalCommand
  /-- A header byte of 8 to 255 (R115 (a)). -/
  | reservedHeader
  /-- Too few bits for the record (R115 (b), (c)). -/
  | incomplete
  deriving DecidableEq, Repr

/-- What a decoder answers: the instruction and the bits after it, or why there is none. -/
inductive Decoded where
  | instr (i : Instr) (rest : Bits)
  | rejected (why : Rejection)
  deriving DecidableEq, Repr

/-- The instruction a decoder found, if any. -/
def Decoded.instr? : Decoded → Option Instr
  | .instr i _ => some i
  | .rejected _ => none

/-- The header record (R107): eight bits, read as the byte they spell. -/
def decodeHeader (s : Bits) : Decoded :=
  if s.length < 8 then .rejected .incomplete
  else if num (s.take 8) < 8 then .instr (.hdr (BitVec.ofNat 8 (num (s.take 8)))) (s.drop 8)
  else .rejected .reservedHeader

/-- A tree record (R108, R109): marker 1 is INTERNAL; marker 0 is LEAF and eight symbol bits follow. -/
def decodeTreeRecord (s : Bits) : Decoded :=
  match s with
  | [] => .rejected .incomplete
  | true :: rest => .instr .internal rest
  | false :: rest =>
    if rest.length < 8 then .rejected .incomplete else .instr (.leaf (symOfBits (rest.take 8))) (rest.drop 8)

/-- A payload bit (R111). -/
def decodePayload (s : Bits) : Decoded :=
  match s with
  | [] => .rejected .incomplete
  | b :: rest => .instr (.pbit b) rest

/-- A padding bit: either value is legal on reading (R115 (d)). -/
def decodePadding (s : Bits) : Decoded :=
  match s with
  | [] => .rejected .incomplete
  | _ :: rest => .instr .padbit rest

/-- A command word as 16 bits, most significant first. -/
def decodeCommandBits (s : Bits) : Decoded :=
  if s.length < 16 then .rejected .incomplete
  else
    match decodeCommand (BitVec.ofNat 16 (num (s.take 16))) with
    | some i => .instr i (s.drop 16)
    | none => .rejected .illegalCommand

/-- Reads one instruction from the front of a bit sequence, by the place it stands in (R101, R114). -/
def decode (p : Place) (s : Bits) : Decoded :=
  match p with
  | .command => decodeCommandBits s
  | .header => decodeHeader s
  | .tree => decodeTreeRecord s
  | .payload => decodePayload s
  | .padding => decodePadding s

/-! ## Encoding -/

/-- The word of a format-N command (R100). -/
def wordN (op : Byte) : CmdWord := op ++ 0#8

/-- The word of a format-S command (R100). -/
def wordS (op sym : Byte) : CmdWord := op ++ sym

/-- The 16-bit word of a command (R103). A stream record has no command word; it gets 0, which nothing asks for. -/
def commandWord : Instr → CmdWord
  | .nop => wordN 0x00
  | .clr => wordN 0x01
  | .fadd sym => wordS 0x10 sym
  | .faddt => wordN 0x11
  | .fcnt sym => wordS 0x12 sym
  | .build => wordN 0x20
  | .cwlk sym => wordS 0x21 sym
  | .sert => wordN 0x30
  | .enc sym => wordS 0x31 sym
  | .enct => wordN 0x32
  | .fin => wordN 0x33
  | .ldhdr => wordN 0x40
  | .deser => wordN 0x41
  | .dec1 => wordN 0x42
  | .decall => wordN 0x43
  | .rewind => wordN 0x44
  | .comp => wordN 0x50
  | .decomp => wordN 0x51
  | .hdr _ | .leaf _ | .internal | .pbit _ | .padbit => 0

/-- The bits of an instruction in stream order: a command's word, most significant bit first, or a record's bits (R107 to
R112). -/
def encode (i : Instr) : Bits :=
  match i with
  | .hdr v => bits8 v
  | .leaf sym => false :: symBits sym
  | .internal => [true]
  | .pbit b => [b]
  | .padbit => [false]
  | .nop | .clr | .fadd _ | .faddt | .fcnt _ | .build | .cwlk _ | .sert | .enc _ | .enct | .fin | .ldhdr | .deser
  | .dec1 | .decall | .rewind | .comp | .decomp => bitsOfNat 16 (commandWord i).toNat

/-! ## The opcode table's numbering -/

/-- The place that the opcode table's row of `nbits` bits stands in (log 10): a command word has 16 bits and the header record
8; the other records are tree records of 9 bits or 1 (of the three rows of one bit, INTERNAL is the one a number can name). -/
def tablePlace (nbits : Nat) : Place :=
  if nbits = 16 then .command else if nbits = 8 then .header else .tree

/-- The instruction this decoder reads from a row of the opcode table: `w` is the row's bits as one number, bit 0 the least
significant. -/
def decodeTableWord (nbits w : Nat) : Option Instr := (decode (tablePlace nbits) (bitsOfNat nbits w)).instr?

end Sys2Proof
end

