-- ==== Sys2Proof/Machine/State.lean ====
section
/-!
DEFINITION. The state of HUFFCORE (10_state.md R20 to R49) as plain data, the reasons a step can stop, and the state after
reset (R49, R260). Registers whose width is an OPEN parameter, and index registers, are natural numbers whose ranges are
invariants (log 6); what the manual treats as bits (bytes, the command word, PAD, ACC, ACCN) are bit vectors.
-/

namespace Sys2Proof.Machine

/-- The OPEN parameters of R7. A model takes them as arguments: they are part of the state, and no step changes them (log 5). -/
structure Params where
  /-- `CW`: the width of a count in bits. -/
  cw : Nat
  /-- `AW`: the width of a byte index or byte length in bits. -/
  aw : Nat
  /-- `IBUF_CAP`: the bytes of the input buffer. -/
  ibufCap : Nat
  /-- `OBUF_CAP`: the bytes of the output buffer. -/
  obufCap : Nat
  deriving DecidableEq, Repr

/-- PHASE, STATUS[7:5] (R26). Values 6 and 7 never occur and have no constructor (U21). -/
inductive Phase where
  | count
  | built
  | stream
  | closed
  | hdr
  | payload
  deriving DecidableEq, Repr

/-- STATUS (R27), one field per bit or bit group. -/
structure Status where
  busy : Bool
  err : Bool
  empty : Bool
  rootv : Bool
  codev : Bool
  phase : Phase
  deriving DecidableEq, Repr

/-- CAUSE (R28): the fault kinds of R221, with `none` for code 0. Codes 10 to 15 never appear (U21). -/
inductive Cause where
  | none
  | malformedStream
  | unknownSymbol
  | illegalCommand
  | phaseError
  | countOverflow
  | outputOverflow
  | nodeOverflow
  | degenerateTree
  | badHeader
  deriving DecidableEq, Repr

/-- An entry of NODE (R40). -/
structure Node where
  /-- LEAF: 1 for a leaf. -/
  leaf : Bool
  /-- SYM: the symbol of a leaf. -/
  sym : Byte
  /-- LEFT: the index of the left child. -/
  left : Nat
  /-- RIGHT: the index of the right child. -/
  right : Nat
  /-- COUNT. -/
  count : Nat
  deriving DecidableEq, Repr

/-- A NODE entry with every field 0 (R49). -/
def Node.zero : Node := { leaf := false, sym := 0, left := 0, right := 0, count := 0 }

/-- An entry of CODE (R44). -/
structure CodeEntry where
  /-- VALID. -/
  valid : Bool
  /-- LEN. -/
  len : Nat
  /-- BITS, a bit sequence (R22 lets a model hold it so). -/
  bits : Bits
  deriving DecidableEq, Repr

/-- A CODE entry of a symbol with no codeword (R44, R49). -/
def CodeEntry.invalid : CodeEntry := { valid := false, len := 0, bits := [] }

/-- An INTERNAL record of `Des` (R183) whose subtrees are not yet complete: its node waits for its left subtree, or, its left
child known, for its right subtree. -/
inductive Frame where
  | left (shell : Nat)
  | right (shell leftChild : Nat)
  deriving DecidableEq, Repr

/-- Where the engine stands inside a command before a stream record: the local state of R48, record by record (R88; log 9).
`idle` outside every record. -/
inductive Reader where
  | idle
  /-- Before the header byte (R181). -/
  | header
  /-- Before the tree record whose marker is at bit `cur`, with the unfinished INTERNAL records around it, innermost first. -/
  | tree (cur : Nat) (frames : List Frame)
  /-- `Des` has returned: the index of the tree's root and the bit index after the tree. -/
  | treeDone (root cur : Nat)
  /-- Inside `Walk1` (R185): the codeword began at bit `start`, the next bit is at `cur`, and the walk stands at `node`. -/
  | walk (start cur node : Nat)
  deriving DecidableEq, Repr

/-- A move of the host (R18, R23, R73), or the reset input (R260). -/
inductive HostMove where
  /-- Write a register by number: 0 is CMD (of a value wider than 16 bits the low 16: log 23), 4 is ILEN, any other has no effect (R23,
  U19). -/
  | writeReg (number value : Nat)
  /-- Write a byte of IBUF. -/
  | writeIbuf (index : Nat) (value : Byte)
  /-- Read a register by number. -/
  | readReg (number : Nat)
  | readFreq (sym : Byte)
  | readOrder (rank : Byte)
  | readNode (index : Fin 511)
  | readCode (sym : Byte)
  | readIbuf (index : Nat)
  | readObuf (index : Nat)
  /-- The reset input. -/
  | reset
  deriving DecidableEq, Repr

/-- What a host read returned. -/
inductive HostValue where
  /-- Nothing has been read. -/
  | nothing
  /-- A register, a count, a symbol or a byte. -/
  | number (n : Nat)
  | nodeEntry (n : Node)
  | codeEntry (c : CodeEntry)
  deriving DecidableEq, Repr

/-- A byte memory in its one canonical form (see `Memory.wf`): the bytes that have been written, addresses strictly rising. An
address not listed reads as no value (log 4). -/
abbrev Memory := List Host.Cell

/-- Why the machine stops. No command of a run from reset raises any of these; the hardware's own faults (R221) are next states. -/
inductive Fault where
  /-- Raised by a host move that names a byte of IBUF or OBUF at or above its capacity, which does not exist (R47). Safe: the
  model stops where the spec says nothing (log 13). -/
  | noSuchByte
  /-- Raised by BUILD, SERT, DESER, DEC1, DECALL, COMP, DECOMP and PBIT when the entries they read from NODE are not a tree (R41).
  No run reaches such a state. Safe: a stuck state (log 11). -/
  | nodeStoreNotATree
  /-- Raised by FADD, FADDT, BUILD and COMP when NSYM is past the end of ORDER, against R39. No run reaches such a state. Safe: a
  stuck state (log 11). -/
  | fileIndexOutOfRange
  /-- Raised by DESER and DECOMP if `Des` nested deeper than NODE_CAP levels, which it cannot, since each level takes a node. Safe: a
  stuck state that is never reached (log 11). -/
  | recursionBound
  deriving DecidableEq, Repr

/-- Why a step is refused. -/
inductive Refusal where
  /-- Raised by an arm of `exec` that has no meaning yet. Safe. No arm is left so. -/
  | notModelled (mnemonic : String)
  /-- Raised by a stream record executed where the engine does not stand before such a record (R114). Safe (log 9). -/
  | recordOutOfPlace
  /-- Raised by a host read of an IBUF byte the host has not written, or of an OBUF byte at or above OLEN: "a model should treat
  such a read as refused" (R49, U15). Safe (log 13). -/
  | unspecifiedRead
  deriving DecidableEq, Repr

/-- The whole state: R20's list, the parameters of R7, and the model's own `reader`, `hostMoves`, `hostData` and `epoch`. -/
structure State where
  params : Params
  /-- CMD, register 0 (R29). -/
  cmd : CmdWord
  /-- STATUS, register 1 (R27). -/
  status : Status
  /-- CAUSE, register 2 (R28). -/
  cause : Cause
  /-- EINFO, register 3 (R28). -/
  einfo : Nat
  /-- ILEN, register 4 (R30). -/
  ilen : Nat
  /-- OLEN, register 5 (R31). -/
  olen : Nat
  /-- PAD, register 6 (R32). -/
  pad : BitVec 3
  /-- ICUR, register 7 (R25). -/
  icur : Nat
  /-- PSTART, register 8 (R33). -/
  pstart : Nat
  /-- PEND, register 9 (R33). -/
  pend : Nat
  /-- NSYM, register 10 (R34). -/
  nsym : Nat
  /-- TOTAL, register 11 (R34). -/
  total : Nat
  /-- NNODE, register 12 (R35). -/
  nnode : Nat
  /-- ROOT, register 13 (R35). -/
  root : Nat
  /-- ACC, register 14 (R36). -/
  acc : Byte
  /-- ACCN, register 15 (R36). -/
  accn : BitVec 3
  /-- RSYM, register 16 (R21). -/
  rsym : Byte
  /-- RCOUNT, register 17 (R21). -/
  rcount : Nat
  /-- RLEN, register 18 (R21). -/
  rlen : Nat
  /-- RCODE, register 19 (R22). -/
  rcode : Bits
  /-- FREQ (R37). -/
  freq : Vector Nat 256
  /-- ORDER (R38). -/
  order : Vector Byte 256
  /-- NODE (R40). -/
  nodes : Vector Node 511
  /-- CODE (R44). -/
  code : Vector CodeEntry 256
  /-- IBUF (R47): the bytes the host has written since reset. -/
  ibuf : Memory
  /-- OBUF (R47): the bytes the engine has written since reset. -/
  obuf : Memory
  /-- The model's own: the engine's local state before a stream record (R48; log 9). -/
  reader : Reader
  /-- The model's own: the host's moves still to come (log 1). -/
  hostMoves : List HostMove
  /-- The model's own: what the host's last read returned (log 15). -/
  hostData : HostValue
  /-- The model's own: how many reset events there have been; it selects the free contents of IBUF (log 4). -/
  epoch : Nat
  deriving DecidableEq, Repr

/-- The default parameters: CW = AW = 32 are the spec's (R7); the capacities are a DESIGN CHOICE, the largest R7 allows (log 5). -/
def Params.default : Params := { cw := 32, aw := 32, ibufCap := 2 ^ 32 - 1, obufCap := 2 ^ 32 - 1 }

/-- STATUS after reset: 0x00 (R49). -/
def Status.reset : Status :=
  { busy := false, err := false, empty := false, rootv := false, codev := false, phase := .count }

/-- The state after reset with the given parameters: every register and register file entry zero (R49, R260). -/
def State.initial (p : Params) : State :=
  { params := p, cmd := 0, status := Status.reset, cause := .none, einfo := 0, ilen := 0, olen := 0, pad := 0, icur := 0,
    pstart := 0, pend := 0, nsym := 0, total := 0, nnode := 0, root := 0, acc := 0, accn := 0, rsym := 0, rcount := 0,
    rlen := 0, rcode := [], freq := Vector.replicate 256 0, order := Vector.replicate 256 0,
    nodes := Vector.replicate 511 Node.zero, code := Vector.replicate 256 CodeEntry.invalid, ibuf := [], obuf := [],
    reader := .idle, hostMoves := [], hostData := .nothing, epoch := 0 }

/-- The machine right after reset (R49, R260), with the default parameters. -/
def State.reset : State := State.initial Params.default

end Sys2Proof.Machine
end

