-- ==== Sys2Proof/Machine/Flags.lean ====
section
/-!
DEFINITION. STATUS, PHASE and CAUSE as the numbers software reads (R26 to R28, R221), and the table of which command is legal in
which phase (R26).
-/

namespace Sys2Proof.Machine

/-- The value of PHASE (R26). -/
def Phase.code : Phase → BitVec 3
  | .count => 0
  | .built => 1
  | .stream => 2
  | .closed => 3
  | .hdr => 4
  | .payload => 5

/-- The fault codes (R221). -/
def Cause.code : Cause → BitVec 4
  | .none => 0
  | .malformedStream => 1
  | .unknownSymbol => 2
  | .illegalCommand => 3
  | .phaseError => 4
  | .countOverflow => 5
  | .outputOverflow => 6
  | .nodeOverflow => 7
  | .degenerateTree => 8
  | .badHeader => 9

/-- STATUS as its byte (R27): PHASE in bits 7:5, CODEV 4, ROOTV 3, EMPTY 2, ERR 1, BUSY 0. -/
def Status.toByte (st : Status) : Byte :=
  st.phase.code ++ BitVec.ofBool st.codev ++ BitVec.ofBool st.rootv ++ BitVec.ofBool st.empty ++ BitVec.ofBool st.err
    ++ BitVec.ofBool st.busy

/-- R26: the commands legal in a phase. NOP, CLR and FCNT are legal in every phase; CWLK is legal exactly when CODEV = 1. A stream
record is no command; its place is checked by the record's own meaning. -/
def Status.permits (st : Status) : Instr → Bool
  | .nop => true
  | .clr => true
  | .fcnt _ => true
  | .cwlk _ => st.codev
  | .fadd _ => st.phase == .count
  | .faddt => st.phase == .count
  | .build => st.phase == .count
  | .ldhdr => st.phase == .count
  | .comp => st.phase == .count
  | .decomp => st.phase == .count
  | .sert => st.phase == .built
  | .enc _ => st.phase == .stream
  | .enct => st.phase == .stream
  | .fin => st.phase == .stream
  | .deser => st.phase == .hdr
  | .dec1 => st.phase == .payload
  | .decall => st.phase == .payload
  | .rewind => st.phase == .payload
  | .hdr _ | .leaf _ | .internal | .pbit _ | .padbit => true

/-- The input lock (R73): the host may not write IBUF or ILEN while a container is being decoded. -/
def Status.inputLocked (st : Status) : Bool := st.phase == .hdr || st.phase == .payload

end Sys2Proof.Machine
end

