-- ==== Sys2Proof/Machine/Tree.lean ====
section
/-!
DEFINITION. The tree value of R41, its serialization (R110), its code table as paths (R146) and the two comparisons of R43.
-/

namespace Sys2Proof.Machine

/-- The tree value of R41. -/
inductive Tree where
  | leaf (count : Nat) (sym : Byte)
  | internal (count : Nat) (left right : Tree)
  deriving DecidableEq, Repr

/-- The count a node carries (R40). -/
def Tree.count : Tree → Nat
  | .leaf c _ => c
  | .internal c _ _ => c

/-- The number of nodes. -/
def Tree.size : Tree → Nat
  | .leaf _ _ => 1
  | .internal _ l r => 1 + l.size + r.size

/-- `ser` of R110: a tree as its LEAF and INTERNAL records in pre-order. The count is not written. -/
def Tree.ser : Tree → Bits
  | .leaf _ sym => encode (.leaf sym)
  | .internal _ l r => encode .internal ++ l.ser ++ r.ser

/-- `Walk` of R146: the leaves in the order the walk visits them, left before right (R147), each with the bits from the walk's
start to it: 0 for a left edge, 1 for a right edge. -/
def Tree.paths : Tree → Bits → List (Byte × Bits)
  | .leaf _ sym, path => [(sym, path)]
  | .internal _ l r, path => l.paths (path ++ [false]) ++ r.paths (path ++ [true])

/-- `shape_eq` of R43: structural equality without the counts. -/
def Tree.shapeEq : Tree → Tree → Bool
  | .leaf _ a, .leaf _ b => a == b
  | .internal _ l r, .internal _ l' r' => l.shapeEq l' && r.shapeEq r'
  | .leaf _ _, .internal _ _ _ => false
  | .internal _ _ _, .leaf _ _ => false

/-- `node_eq` of R43: structural equality with the counts. -/
def Tree.nodeEq (t u : Tree) : Bool := t == u

/-- `decode_one` (R185) on a tree value and a bit sequence: the symbol of the leaf the leading bits lead to and the bits left, or
nothing when the bits end first. -/
def Tree.decodeOne : Tree → Bits → Option (Byte × Bits)
  | .leaf _ sym, s => some (sym, s)
  | .internal _ _ _, [] => none
  | .internal _ l r, b :: s => if b then r.decodeOne s else l.decodeOne s

end Sys2Proof.Machine
end

