-- ==== Sys2Proof/Machine/Ops.lean ====
section
/-!
DEFINITION. The named operations every meaning uses: the byte memories, the register files, the result of a piece of
pseudocode (R12 `raise`), fault entry (R222), the common checks of a command (R225), and the bit and byte writers (R77, R78).
-/

namespace Sys2Proof.Machine

/-! ## Byte memories -/

/-- The byte at an address, if it has been written. -/
def Memory.read? : Memory → Nat → Option Byte
  | [], _ => none
  | c :: m, a => if c.1 = a then some c.2 else Memory.read? m a

/-- Writes one byte, keeping the canonical form. -/
def Memory.write : Memory → Nat → Byte → Memory
  | [], a, v => [(a, v)]
  | c :: m, a, v => if a < c.1 then (a, v) :: c :: m else if a = c.1 then (a, v) :: m else c :: Memory.write m a v

/-- The canonical form: addresses strictly rising. (An unlisted address reads as no value, so no entry can equal it.) -/
abbrev Memory.wf (m : Memory) : Prop := m.Pairwise fun c d => c.1 < d.1

/-! ## Parameters and register files -/

/-- `2^CW - 1` (R133): the largest count. -/
def Params.countMax (p : Params) : Nat := 2 ^ p.cw - 1

/-- `FREQ[sym]` (R37). -/
def State.freqOf (s : State) (sym : Byte) : Nat := s.freq[sym.toNat]

/-- `FREQ[sym] <- n`. -/
def State.setFreq (s : State) (sym : Byte) (n : Nat) : State := { s with freq := s.freq.set sym.toNat n }

/-- `ORDER[rank]` (R38). -/
def State.orderAt (s : State) (rank : Nat) : Byte := (s.order[rank]?).getD 0

/-- `ORDER[rank] <- sym`. -/
def State.setOrder (s : State) (rank : Nat) (sym : Byte) : State := { s with order := s.order.setIfInBounds rank sym }

/-- `NODE[i]` (R40). -/
def State.nodeAt (s : State) (i : Nat) : Node := (s.nodes[i]?).getD Node.zero

/-- `NODE[i] <- n`. -/
def State.setNode (s : State) (i : Nat) (n : Node) : State := { s with nodes := s.nodes.setIfInBounds i n }

/-- `CODE[sym]` (R44). -/
def State.codeOf (s : State) (sym : Byte) : CodeEntry := s.code[sym.toNat]

/-- A leaf entry of NODE (R141, R183). -/
def Node.mkLeaf (sym : Byte) (count : Nat) : Node := { leaf := true, sym := sym, left := 0, right := 0, count := count }

/-- An internal entry of NODE (R143, R183). -/
def Node.mkInternal (left right count : Nat) : Node :=
  { leaf := false, sym := 0, left := left, right := right, count := count }

/-- `tree_of(i)` of R41, following children at most `depth` levels; nothing where the entries are not a tree. -/
def State.treeAt? (s : State) : (depth : Nat) → (i : Nat) → Option Tree
  | 0, _ => none
  | depth + 1, i =>
    if s.nnode ≤ i then none
    else if (s.nodeAt i).leaf then some (.leaf (s.nodeAt i).count (s.nodeAt i).sym)
    else
      match s.treeAt? depth (s.nodeAt i).left, s.treeAt? depth (s.nodeAt i).right with
      | some l, some r => some (.internal (s.nodeAt i).count l r)
      | _, _ => none

/-- `tree_of(ROOT)` (R41). A tree of at most NODE_CAP nodes is at most NODE_CAP levels deep. -/
def State.tree? (s : State) : Option Tree := s.treeAt? Config.nodeCap s.root

/-- The child of node `i` that a payload bit selects: 0 left, 1 right (R111, R185). -/
def State.childOf (s : State) (i : Nat) (b : Bool) : Nat := if b then (s.nodeAt i).right else (s.nodeAt i).left

/-! ## Running pseudocode -/

/-- How a piece of pseudocode ends: it ran to its last line, it reached `raise kind(info)` (R12), or the machine is stuck. Every
write made before stays in the state. -/
inductive Res (α : Type) where
  | ok (a : α) (s : State)
  | raised (kind : Cause) (info : Nat) (s : State)
  | stuck (f : Fault)
  deriving DecidableEq, Repr

/-- One piece of pseudocode after another: the second runs only where the first did not stop. -/
def Res.bind {α β : Type} (r : Res α) (next : α → State → Res β) : Res β :=
  match r with
  | .ok a s => next a s
  | .raised k n s => .raised k n s
  | .stuck f => .stuck f

/-- Fault entry (R222): ERR, CAUSE and EINFO are written and nothing else. -/
def State.raise (s : State) (kind : Cause) (info : Nat) : State :=
  { s with status := { s.status with err := true }, cause := kind, einfo := info }

/-- The outcome of a command whose pseudocode ended so. A fault of the hardware is a next state (R222). -/
def Res.outcome {α : Type} (r : Res α) : Host.Outcome State Fault Refusal :=
  match r with
  | .ok _ s => .next s
  | .raised k n s => .next (s.raise k n)
  | .stuck f => .fault f

/-- The common checks of a legal command word (R225 steps 1, 3 and 4): while a fault is recorded the command does nothing (R224);
out of phase it raises PhaseError with its word (R229); else its pseudocode runs. CLR, which acts in every state, does not
come here. -/
def runCommand (i : Instr) (body : State → Res Unit) (s : State) : Host.Outcome State Fault Refusal :=
  if s.status.err then .next s
  else if s.status.permits i then (body s).outcome
  else .next (s.raise .phaseError (commandWord i).toNat)

/-- IllegalCommand (R225 steps 1 and 2, R228): ignored while a fault is recorded. -/
def illegalCommand (w : CmdWord) (s : State) : State :=
  if s.status.err then s else s.raise .illegalCommand w.toNat

/-- Writes PHASE. -/
def State.setPhase (s : State) (p : Phase) : State := { s with status := { s.status with phase := p } }

/-- The empty short-circuit (R149, R182, D30): OLEN 0, EMPTY and CODEV set, PHASE CLOSED. -/
def State.emptyClosed (s : State) : State :=
  { s with olen := 0, status := { s.status with empty := true, codev := true, phase := .closed } }

/-- The state CLR leaves (R201, R202): the reset state, but for the buffers, and the model's own host moves, host data and
epoch, which are no registers. -/
def State.cleared (s : State) : State :=
  { State.initial s.params with
    ibuf := s.ibuf, obuf := s.obuf, hostMoves := s.hostMoves, hostData := s.hostData, epoch := s.epoch }

/-- The state a reset event leaves (R260): the reset state; the buffers' contents are unspecified, so nothing is listed and the
next epoch's free contents apply. -/
def State.afterReset (s : State) : State :=
  { State.initial s.params with hostMoves := s.hostMoves, epoch := s.epoch + 1 }

/-! ## The output side -/

/-- `MemWrite(OBUF, a, 1, v)` (R72). -/
def State.writeObuf (s : State) (a : Nat) (v : Byte) : State := { s with obuf := Memory.write s.obuf a v }

/-- ACC with a bit placed after the ACCN waiting ones (R77 line 1). -/
def State.accWith (s : State) (b : Bool) : Byte := s.acc ||| ((BitVec.ofBool b).setWidth 8 <<< (7 - s.accn.toNat))

/-- `PutBit` (R77). The bit is placed in ACC before the capacity test. (`OLEN = OBUF_CAP` is tested as `≥`: log 12.) -/
def putBit (b : Bool) (s : State) : Res Unit :=
  if s.accn = 7#3 then
    if s.params.obufCap ≤ s.olen then .raised .outputOverflow s.olen { s with acc := s.accWith b }
    else .ok () { s.writeObuf s.olen (s.accWith b) with olen := s.olen + 1, acc := 0, accn := 0 }
  else .ok () { s with acc := s.accWith b, accn := s.accn + 1 }

/-- `PutBits` (R77): `PutBit` of every bit, first to last. -/
def putBits : Bits → State → Res Unit
  | [], s => .ok () s
  | b :: bs, s => (putBit b s).bind fun _ s => putBits bs s

/-- `PutByte` (R78). -/
def putByte (v : Byte) (s : State) : Res Unit :=
  if s.params.obufCap ≤ s.olen then .raised .outputOverflow s.olen s
  else .ok () { s.writeObuf s.olen v with olen := s.olen + 1 }

end Sys2Proof.Machine
end

