-- ==== Sys2Proof/Machine/Operands.lean ====
section
/-!
DEFINITION. What a command reads besides its registers: bytes and bits of the input buffer (R71, R75, R76), the input text
(R132, R166), and the bits a stream record is read from.
-/

namespace Sys2Proof.Machine

/-- `MemRead(IBUF, a, 1)` (R71): the byte the host last wrote there; where it wrote none since reset, the unspecified byte that
reset left (R49, U15), a free value (log 4). -/
def State.memRead (s : State) (a : Nat) : Byte := (Memory.read? s.ibuf a).getD (Config.ibufPowerOn s.epoch a)

/-- The bytes `IBUF[0..ILEN)` in ascending order (R70). -/
def State.inputText (s : State) : List Byte := (List.range s.ilen).map s.memRead

/-- `InBit(b)` (R75): bit `7 - (b mod 8)` of byte `b div 8`. -/
def State.inBit (s : State) (b : Nat) : Bool := (s.memRead (b / 8)).getLsbD (7 - b % 8)

/-- The `n` bits of the input bit stream from bit index `b`. -/
def State.inBits (s : State) (b n : Nat) : Bits := (List.range n).map fun k => s.inBit (b + k)

/-- The symbol of the LEAF record whose marker is at bit `b` (R108): `InBits8(b + 1)` (R76). -/
def State.leafSymbol (s : State) (b : Nat) : Byte := symOfBits (s.inBits (b + 1) 8)

/-- The bytes a bit sequence fills, `n` of them, most significant bit first and zeros after its end (R74). -/
def packBytes : Nat → Bits → List Byte
  | 0, _ => []
  | n + 1, s => BitVec.ofNat 8 (num ((s ++ List.replicate 8 false).take 8)) :: packBytes n (s.drop 8)

/-- Writes consecutive bytes from an address. -/
def Memory.writeList : Memory → Nat → List Byte → Memory
  | m, _, [] => m
  | m, a, v :: vs => Memory.writeList (Memory.write m a v) (a + 1) vs

end Sys2Proof.Machine
end

