-- ==== Sys2Proof/Machine/Build.lean ====
section
/-!
DEFINITION. Tree construction and the code table: BUILD and CWLK (41_build.md).
-/

namespace Sys2Proof.Machine

/-! ## The sort and the merge -/

/-- Puts `x` into a list in ascending order of count, after every element whose count is not greater (R145 (a)). -/
def insertByCount (count : Nat → Nat) (x : Nat) : List Nat → List Nat
  | [] => [x]
  | y :: ys => if count x < count y then x :: y :: ys else y :: insertByCount count x ys

/-- `StableSort` (R142): ascending by count, elements of equal count in the order they had. -/
def stableSort (count : Nat → Nat) (l : List Nat) : List Nat := l.foldl (fun sorted x => insertByCount count x sorted) []

/-- `NODE[x].COUNT`, the one sort key (R142). -/
def State.nodeCount (s : State) (x : Nat) : Nat := (s.nodeAt x).count

/-- R141: the leaf for `ORDER[i]` is `NODE[i]`. -/
def State.setLeaf (s : State) (i : Nat) : State := s.setNode i (Node.mkLeaf (s.orderAt i) (s.freqOf (s.orderAt i)))

/-- The first NSYM entries of NODE as the leaves, and NNODE (R140, R141). -/
def State.withLeaves (s : State) : State :=
  { (List.range s.nsym).foldl State.setLeaf s with nnode := s.nsym }

/-- The node of one merge step (R143): the first removed is the left child (D10), the count is the sum. -/
def State.mergeNode (s : State) (a b : Nat) : Node :=
  if Config.firstRemovedIsLeft then Node.mkInternal a b (s.nodeCount a + s.nodeCount b)
  else Node.mkInternal b a (s.nodeCount a + s.nodeCount b)

/-- `NODE[NNODE] <- ...; NNODE <- NNODE + 1` of one merge step (R140). -/
def State.merged (s : State) (a b : Nat) : State := { s.setNode s.nnode (s.mergeNode a b) with nnode := s.nnode + 1 }

/-- The `while |L| > 1` loop of R140: `fuel` bounds its steps by the list's length. It answers the root's index. -/
def mergeAll : (fuel : Nat) → List Nat → State → Res Nat
  | _, [root], s => .ok root s
  | fuel + 1, a :: b :: rest, s => mergeAll fuel (stableSort (s.merged a b).nodeCount (rest ++ [s.nnode])) (s.merged a b)
  | 0, _ :: _ :: _, _ => .stuck .nodeStoreNotATree
  | _, [], _ => .stuck .nodeStoreNotATree

/-! ## The code table -/

/-- The code table of a tree (R146): cleared, then each leaf's path written in the order the walk visits the leaves, so a later
leaf of the same symbol overwrites an earlier one (R147). -/
def Tree.codeTable (t : Tree) : Vector CodeEntry 256 :=
  (t.paths []).foldl
    (fun code entry => code.set entry.1.toNat { valid := true, len := entry.2.length, bits := entry.2 })
    (Vector.replicate 256 CodeEntry.invalid)

/-- `DeriveCodes()` (R146): the walk from ROOT. -/
def deriveCodes (s : State) : Res Unit :=
  match s.tree? with
  | some t => .ok () { s with code := t.codeTable }
  | none => .stuck .nodeStoreNotATree

/-! ## The commands -/

/-- The last line of BUILD, and of DESER with the other phase: ROOTV, CODEV, PHASE. -/
def State.treeReady (s : State) (p : Phase) : State :=
  { s with status := { s.status with rootv := true, codev := true, phase := p } }

/-- The pseudocode of BUILD (R140; the zero-symbol case is R149, the one-symbol case R150). -/
def buildBody (s : State) : Res Unit :=
  if s.nsym = 0 then .ok () s.emptyClosed
  else if Config.nsymMax < s.nsym then .stuck .fileIndexOutOfRange
  else
    (mergeAll s.nsym (stableSort s.withLeaves.nodeCount (List.range s.nsym)) s.withLeaves).bind fun root s =>
      (deriveCodes { s with root := root }).bind fun _ s => .ok () (s.treeReady .built)

/-- The pseudocode of CWLK (R148). -/
def cwlkBody (sym : Byte) (s : State) : Res Unit :=
  if (s.codeOf sym).valid then .ok () { s with rlen := (s.codeOf sym).len, rcode := (s.codeOf sym).bits }
  else .raised .unknownSymbol sym.toNat s

/-- BUILD (R140). -/
def execBuild (s : State) : Host.Outcome State Fault Refusal := runCommand .build buildBody s

/-- CWLK (R148). -/
def execCwlk (sym : Byte) (s : State) : Host.Outcome State Fault Refusal := runCommand (.cwlk sym) (cwlkBody sym) s

end Sys2Proof.Machine
end

