-- ==== Sys2Proof/Machine/Reconstruct.lean ====
section
/-!
DEFINITION. The header reader, the tree deserializer and the payload decoder: LDHDR, DESER, DEC1, DECALL and REWIND
(43_decode.md).
-/

namespace Sys2Proof.Machine

/-! ## The header -/

/-- LDHDR's last lines (R181), and the meaning of the header record (R107): a reserved byte raises BadHeader (R115 (a)). -/
def loadHeader (v : Byte) (s : State) : Res Unit :=
  if 7 < v.toNat then .raised .badHeader v.toNat s
  else .ok () ({ s with pad := v.setWidth 3, icur := 8 }.setPhase .hdr)

/-- The pseudocode of LDHDR (R181; zero bytes are R182). -/
def ldhdrBody (s : State) : Res Unit := if s.ilen = 0 then .ok () s.emptyClosed else loadHeader (s.memRead 0) s

/-! ## The tree -/

/-- The first lines of `Des(b)` (R183): a marker must be left, and the node store must have room; then the empty shell is
taken. It answers the shell's index. (`NNODE = NODE_CAP` is tested as `≥`: log 12.) -/
def takeNode (b : Nat) (s : State) : Res Nat :=
  if 8 * s.ilen ≤ b then .raised .malformedStream b s
  else if Config.nodeCap ≤ s.nnode then .raised .nodeOverflow b s
  else .ok s.nnode { s with nnode := s.nnode + 1 }

/-- `Des(b)` (R183): reads the tree whose first marker is at bit `b`; answers its root's index and the bit index after it. `fuel`
bounds the nesting; each level takes a node, so it never runs out (log 11). -/
def des : (fuel : Nat) → (b : Nat) → State → Res (Nat × Nat)
  | 0, _, _ => .stuck .recursionBound
  | fuel + 1, b, s =>
    (takeNode b s).bind fun i s =>
      if s.inBit b = false then
        if 8 * s.ilen - b < 9 then .raised .malformedStream b s
        else .ok (i, b + 9) (s.setNode i (Node.mkLeaf (s.leafSymbol b) 0))
      else
        (des fuel (b + 1) s).bind fun l s =>
          (des fuel l.2 s).bind fun r s =>
            .ok (i, r.2) (s.setNode i (Node.mkInternal l.1 r.1 0))

/-- DESER after `Des` has returned `(root, cur)` (R183, R184). -/
def finishTree (root cur : Nat) (s : State) : Res Unit :=
  if 8 * s.ilen < cur + s.pad.toNat then .raised .malformedStream cur s
  else
    (deriveCodes { s with root := root, icur := cur, pstart := cur, pend := 8 * s.ilen - s.pad.toNat, olen := 0 }).bind
      fun _ s => .ok () (s.treeReady .payload)

/-- The pseudocode of DESER (R183). -/
def deserBody (s : State) : Res Unit :=
  (des (Config.nodeCap + 1) s.icur { s with nnode := 0 }).bind fun r s => finishTree r.1 r.2 s

/-! ## The payload -/

/-- `Walk1`'s loop (R185) from node `i` at bit `c`, `left` bits before PEND: it answers the symbol reached and the bit index after
the codeword, and writes nothing. -/
def walkFrom (c0 : Nat) : (left : Nat) → (i c : Nat) → State → Res (Byte × Nat)
  | left, i, c, s =>
    if s.nnode ≤ i then .stuck .nodeStoreNotATree
    else if (s.nodeAt i).leaf then .ok ((s.nodeAt i).sym, c) s
    else
      match left with
      | 0 => .raised .malformedStream c0 s
      | left + 1 => walkFrom c0 left (s.childOf i (s.inBit c)) (c + 1) s

/-- `Walk1(c0)` (R185). The bits before PEND are `PEND - c0`, so `c >= PEND` is none left. -/
def walk1 (c0 : Nat) (s : State) : Res (Byte × Nat) := walkFrom c0 (s.pend - c0) s.root c0 s

/-- The pseudocode of DEC1 (R186). -/
def dec1Body (s : State) : Res Unit :=
  (walk1 s.icur s).bind fun r s => .ok () { s with rsym := r.1, icur := r.2 }

/-- DECALL's loop `while ICUR < PEND` (R188). `fuel` is the number of bits left at the start; each codeword of an internal root
takes at least one, so `fuel = 0` means ICUR has reached PEND. -/
def decodeAll : (fuel : Nat) → State → Res Unit
  | 0, s => .ok () s
  | fuel + 1, s =>
    if s.icur < s.pend then
      (walk1 s.icur s).bind fun r s => (putByte r.1 s).bind fun _ s => decodeAll fuel { s with icur := r.2 }
    else .ok () s

/-- The pseudocode of DECALL (R188, R189). -/
def decallBody (s : State) : Res Unit :=
  if s.nnode ≤ s.root then .stuck .nodeStoreNotATree
  else if (s.nodeAt s.root).leaf && decide (s.icur < s.pend) then .raised .degenerateTree s.icur s
  else decodeAll (s.pend - s.icur) s

/-! ## The commands -/

/-- LDHDR (R181). -/
def execLdhdr (s : State) : Host.Outcome State Fault Refusal := runCommand .ldhdr ldhdrBody s

/-- DESER (R183). -/
def execDeser (s : State) : Host.Outcome State Fault Refusal := runCommand .deser deserBody s

/-- DEC1 (R186). -/
def execDec1 (s : State) : Host.Outcome State Fault Refusal := runCommand .dec1 dec1Body s

/-- DECALL (R188). -/
def execDecall (s : State) : Host.Outcome State Fault Refusal := runCommand .decall decallBody s

/-- REWIND (R190): `ICUR <- PSTART; OLEN <- 0`. -/
def execRewind (s : State) : Host.Outcome State Fault Refusal :=
  runCommand .rewind (fun s => .ok () { s with icur := s.pstart, olen := 0 }) s

end Sys2Proof.Machine
end

