-- ==== Sys2Proof/Machine/Stream.lean ====
section
/-!
DEFINITION. The stream records as instructions (30_encoding.md R107 to R112): what the engine does on reading one record where it
stands (R88, R114; log 9). The reading commands do these same things, all inside one step: LDHDR one HDR, DESER the LEAF and
INTERNAL records of a tree, DEC1 and DECALL payload bits. A record executed where the engine does not stand before such a record
is refused.
-/

namespace Sys2Proof.Machine

/-- The engine leaves a record: on a fault the command it was in has ended (R222). -/
def State.leaveRecord (s : State) : State := { s with reader := .idle }

/-- The outcome of a tree or payload record. -/
def Res.recordOutcome (r : Res Unit) : Host.Outcome State Fault Refusal :=
  match r with
  | .ok _ s => .next s
  | .raised k n s => .next (s.leaveRecord.raise k n)
  | .stuck f => .fault f

/-- The subtree with root `i` is complete and the next bit is at `cur`: the enclosing INTERNAL record goes on to its right
subtree, or is itself complete (R110, R183). -/
def closeSubtree (i cur : Nat) : List Frame → State → State
  | [], s => { s with reader := .treeDone i cur }
  | .left shell :: frames, s => { s with reader := .tree cur (.right shell i :: frames) }
  | .right shell l :: frames, s => closeSubtree shell cur frames (s.setNode shell (Node.mkInternal l i 0))

/-- A LEAF record at bit `cur` (R108, `Des` of R183). -/
def readLeaf (sym : Byte) (cur : Nat) (frames : List Frame) (s : State) : Res Unit :=
  (takeNode cur s).bind fun i s =>
    if 8 * s.ilen - cur < 9 then .raised .malformedStream cur s
    else .ok () (closeSubtree i (cur + 9) frames (s.setNode i (Node.mkLeaf sym 0)))

/-- An INTERNAL record at bit `cur` (R109, `Des` of R183): the shell waits for its two subtrees. -/
def readInternal (cur : Nat) (frames : List Frame) (s : State) : Res Unit :=
  (takeNode cur s).bind fun i s => .ok () { s with reader := .tree (cur + 1) (.left i :: frames) }

/-- A payload bit (R111, one turn of `Walk1`'s loop, R185): from internal node `i` to a child. -/
def readPayloadBit (b : Bool) (start cur i : Nat) (s : State) : Res Unit :=
  if s.pend ≤ cur then .raised .malformedStream start s
  else .ok () { s with reader := .walk start (cur + 1) (s.childOf i b) }

/-- HDR (R107, R181): the padding count of a container about to be decoded, in phase COUNT. DESIGN CHOICE (log 9): the record, run by
itself, is not asked whether there is input, so it acts also where ILEN = 0; LDHDR tests ILEN first (R226) and reads no header
there. -/
def execHdr (v : Byte) (s : State) : Host.Outcome State Fault Refusal :=
  if s.status.err then .next s
  else if s.status.phase = .count then (loadHeader v s.leaveRecord).outcome
  else .refused .recordOutOfPlace

/-- LEAF (R108, R183). -/
def execLeaf (sym : Byte) (s : State) : Host.Outcome State Fault Refusal :=
  if s.status.err then .next s
  else
    match s.reader with
    | .tree cur frames => (readLeaf sym cur frames s).recordOutcome
    | .idle | .header | .treeDone _ _ | .walk _ _ _ => .refused .recordOutOfPlace

/-- INTERNAL (R109, R183). -/
def execInternal (s : State) : Host.Outcome State Fault Refusal :=
  if s.status.err then .next s
  else
    match s.reader with
    | .tree cur frames => (readInternal cur frames s).recordOutcome
    | .idle | .header | .treeDone _ _ | .walk _ _ _ => .refused .recordOutOfPlace

/-- PBIT (R111, R185). At a leaf the codeword is complete and no payload bit is read. -/
def execPbit (b : Bool) (s : State) : Host.Outcome State Fault Refusal :=
  if s.status.err then .next s
  else
    match s.reader with
    | .walk start cur i =>
      if s.nnode ≤ i then .fault .nodeStoreNotATree
      else if (s.nodeAt i).leaf then .refused .recordOutOfPlace
      else (readPayloadBit b start cur i s).recordOutcome
    | .idle | .header | .tree _ _ | .treeDone _ _ => .refused .recordOutOfPlace

/-- PADBIT (R112, R90): "ignored on input", so nothing changes. -/
def execPadbit (s : State) : Host.Outcome State Fault Refusal := .next s

end Sys2Proof.Machine
end

