-- ==== Sys2Proof/Machine/Encoder.lean ====
section
/-!
DEFINITION. The tree serializer and the bit-packing encoder: SERT, ENC, ENCT and FIN (42_serialize_encode.md).
-/

namespace Sys2Proof.Machine

/-- The header placeholder and the open bit stream (R160, D25). -/
def State.streamOpened (s : State) : State := { s.writeObuf 0 0x00 with olen := 1, acc := 0, accn := 0 }

/-- The pseudocode of SERT (R160). `Ser(ROOT)` puts exactly the bits `ser(tree_of(ROOT))` (R161). -/
def sertBody (s : State) : Res Unit :=
  match s.tree? with
  | some t => (putBits t.ser s.streamOpened).bind fun _ s => .ok () (s.setPhase .stream)
  | none => .stuck .nodeStoreNotATree

/-- The pseudocode of ENC (R164), and of each step of ENCT (R166). -/
def encodeSymbol (sym : Byte) (s : State) : Res Unit :=
  if (s.codeOf sym).valid then putBits (s.codeOf sym).bits s else .raised .unknownSymbol sym.toNat s

/-- The codewords of a text, one after another (R166). -/
def encodeText : List Byte → State → Res Unit
  | [], s => .ok () s
  | sym :: text, s => (encodeSymbol sym s).bind fun _ s => encodeText text s

/-- The pseudocode of ENCT (R166). -/
def enctBody (s : State) : Res Unit := encodeText s.inputText s

/-- The padding count `(8 - ACCN) mod 8` (R168). -/
def State.padding (s : State) : BitVec 3 := BitVec.ofNat 3 (8 - s.accn.toNat)

/-- FIN's flush of the waiting bits (R168), where there are any. -/
def flushPartial (s : State) : Res Unit :=
  if s.accn = 0#3 then .ok () s
  else if s.params.obufCap ≤ s.olen then .raised .outputOverflow s.olen s
  else .ok () { s.writeObuf s.olen s.acc with olen := s.olen + 1, acc := 0, accn := 0 }

/-- The pseudocode of FIN (R168), the header backfill (R79) last. -/
def finBody (s : State) : Res Unit :=
  (flushPartial s).bind fun _ s' =>
    .ok () ({ s'.writeObuf 0 (s.padding.setWidth 8) with pad := s.padding }.setPhase .closed)

/-- SERT (R160). -/
def execSert (s : State) : Host.Outcome State Fault Refusal := runCommand .sert sertBody s

/-- ENC (R164). -/
def execEnc (sym : Byte) (s : State) : Host.Outcome State Fault Refusal := runCommand (.enc sym) (encodeSymbol sym) s

/-- ENCT (R166). -/
def execEnct (s : State) : Host.Outcome State Fault Refusal := runCommand .enct enctBody s

/-- FIN (R168). -/
def execFin (s : State) : Host.Outcome State Fault Refusal := runCommand .fin finBody s

end Sys2Proof.Machine
end

