-- ==== Sys2Proof/Machine/Frequency.lean ====
section
/-!
DEFINITION. The frequency-table commands FADD, FADDT and FCNT (40_frequency.md).
-/

namespace Sys2Proof.Machine

/-- `AddSym` (R130). `TOTAL = 2^CW - 1` is tested as `≥` (log 12). A new symbol with ORDER full is stuck, which R131 says never
happens (log 11). -/
def addSym (sym : Byte) (s : State) : Res Unit :=
  if s.params.countMax ≤ s.total then .raised .countOverflow sym.toNat s
  else if s.freqOf sym = 0 then
    if Config.nsymMax ≤ s.nsym then .stuck .fileIndexOutOfRange
    else .ok () { (s.setOrder s.nsym sym).setFreq sym 1 with nsym := s.nsym + 1, total := s.total + 1 }
  else .ok () { s.setFreq sym (s.freqOf sym + 1) with total := s.total + 1 }

/-- `AddSym` of every symbol of a text, in order (R132). -/
def addText : List Byte → State → Res Unit
  | [], s => .ok () s
  | sym :: text, s => (addSym sym s).bind fun _ s => addText text s

/-- The pseudocode of FADDT (R132). -/
def faddtBody (s : State) : Res Unit := addText s.inputText s

/-- FADD (R131). -/
def execFadd (sym : Byte) (s : State) : Host.Outcome State Fault Refusal := runCommand (.fadd sym) (addSym sym) s

/-- FADDT (R132). -/
def execFaddt (s : State) : Host.Outcome State Fault Refusal := runCommand .faddt faddtBody s

/-- FCNT (R134): `RCOUNT <- FREQ[sym]`. -/
def execFcnt (sym : Byte) (s : State) : Host.Outcome State Fault Refusal :=
  runCommand (.fcnt sym) (fun s => .ok () { s with rcount := s.freqOf sym }) s

end Sys2Proof.Machine
end

