-- ==== Sys2Proof/Machine/System.lean ====
section
/-!
DEFINITION. The system commands NOP and CLR and the composite commands COMP and DECOMP (44_system.md).
-/

namespace Sys2Proof.Machine

/-- NOP (R200): no state changes. -/
def execNop (s : State) : Host.Outcome State Fault Refusal := runCommand .nop (fun s => .ok () s) s

/-- CLR (R201): the one command that acts while a fault is recorded (R224, R225 step 1). -/
def execClr (s : State) : Host.Outcome State Fault Refusal := .next s.cleared

/-- The pseudocode of COMP (R203): the parts' pseudocode in order (R206). -/
def compBody (s : State) : Res Unit :=
  (faddtBody s).bind fun _ s =>
    (buildBody s).bind fun _ s =>
      if s.status.empty then .ok () s
      else (sertBody s).bind fun _ s => (enctBody s).bind fun _ s => finBody s

/-- The pseudocode of DECOMP (R205): the parts' pseudocode in order (R206). -/
def decompBody (s : State) : Res Unit :=
  (ldhdrBody s).bind fun _ s =>
    if s.status.empty then .ok () s
    else (deserBody s).bind fun _ s => decallBody s

/-- COMP (R203). -/
def execComp (s : State) : Host.Outcome State Fault Refusal := runCommand .comp compBody s

/-- DECOMP (R205). -/
def execDecomp (s : State) : Host.Outcome State Fault Refusal := runCommand .decomp decompBody s

end Sys2Proof.Machine
end

