-- ==== Sys2Proof/Machine/Dispatch.lean ====
section
/-!
DEFINITION. One arm per constructor of `Instr`: each is one direct call of that instruction's meaning.
-/

namespace Sys2Proof.Machine

def exec (i : Instr) (s : State) : Host.Outcome State Fault Refusal :=
  match i with
  | .nop => Sys2Proof.Machine.execNop s
  | .clr => Sys2Proof.Machine.execClr s
  | .fadd sym => Sys2Proof.Machine.execFadd sym s
  | .faddt => Sys2Proof.Machine.execFaddt s
  | .fcnt sym => Sys2Proof.Machine.execFcnt sym s
  | .build => Sys2Proof.Machine.execBuild s
  | .cwlk sym => Sys2Proof.Machine.execCwlk sym s
  | .sert => Sys2Proof.Machine.execSert s
  | .enc sym => Sys2Proof.Machine.execEnc sym s
  | .enct => Sys2Proof.Machine.execEnct s
  | .fin => Sys2Proof.Machine.execFin s
  | .ldhdr => Sys2Proof.Machine.execLdhdr s
  | .deser => Sys2Proof.Machine.execDeser s
  | .dec1 => Sys2Proof.Machine.execDec1 s
  | .decall => Sys2Proof.Machine.execDecall s
  | .rewind => Sys2Proof.Machine.execRewind s
  | .comp => Sys2Proof.Machine.execComp s
  | .decomp => Sys2Proof.Machine.execDecomp s
  | .hdr v => Sys2Proof.Machine.execHdr v s
  | .leaf sym => Sys2Proof.Machine.execLeaf sym s
  | .internal => Sys2Proof.Machine.execInternal s
  | .pbit b => Sys2Proof.Machine.execPbit b s
  | .padbit => Sys2Proof.Machine.execPadbit s

end Sys2Proof.Machine
end

