-- ==== Sys2Proof/Machine/HostPort.lean ====
section
/-!
DEFINITION. The host's moves (R18, R23, R30, R73, R278) and the reset input (R260).
-/

namespace Sys2Proof.Machine

/-- A codeword as the 255-bit word of R22: position `i` of the sequence is bit `254 - i`, the rest 0. -/
def codeWord255 (s : Bits) : Nat := num ((s ++ List.replicate Config.codeMax false).take Config.codeMax)

/-- What a host read of a register number returns (R23): CMD reads 0 (R29), numbers 20 and above read 0. -/
def State.regValue (s : State) (number : Nat) : Nat :=
  match number with
  | 1 => s.status.toByte.toNat
  | 2 => s.cause.code.toNat
  | 3 => s.einfo
  | 4 => s.ilen
  | 5 => s.olen
  | 6 => s.pad.toNat
  | 7 => s.icur
  | 8 => s.pstart
  | 9 => s.pend
  | 10 => s.nsym
  | 11 => s.total
  | 12 => s.nnode
  | 13 => s.root
  | 14 => s.acc.toNat
  | 15 => s.accn.toNat
  | 16 => s.rsym.toNat
  | 17 => s.rcount
  | 18 => s.rlen
  | 19 => codeWord255 s.rcode
  | _ => 0

/-- A host write of CMD (R29): BUSY rises and the command is the engine's next step (R27; log 2). -/
def State.withCommand (s : State) (w : CmdWord) : State :=
  { s with cmd := w, status := { s.status with busy := true } }

/-- A host write of ILEN: ignored when larger than IBUF_CAP (R30) or while the lock is closed (R73). -/
def State.writeIlen (s : State) (n : Nat) : State :=
  if s.status.inputLocked || decide (s.params.ibufCap < n) then s else { s with ilen := n }

/-- A host write of a register by number (R23): any number but CMD and ILEN has no effect (U19). DESIGN CHOICE (log 23): CMD has 16 bits
(R29), and of a value that is wider CMD takes the low 16 bits. -/
def State.writeReg (s : State) (number value : Nat) : State :=
  match number with
  | 0 => s.withCommand (BitVec.ofNat 16 value)
  | 4 => s.writeIlen value
  | _ => s

/-- The reset input is the next thing to happen (R260; log 3). -/
def State.resetNext (s : State) : Bool := s.hostMoves.head? == some .reset

/-- A host read has returned a value. -/
def State.returned (s : State) (v : HostValue) : State := { s with hostData := v }

/-- One move of the host, or the reset input. -/
def hostMove (m : HostMove) (s : State) : Host.Outcome State Fault Refusal :=
  match m with
  | .writeReg number value => .next (s.writeReg number value)
  | .writeIbuf a v =>
    if s.params.ibufCap ≤ a then .fault .noSuchByte
    else if s.status.inputLocked then .next s
    else .next { s with ibuf := Memory.write s.ibuf a v }
  | .readReg number => .next (s.returned (.number (s.regValue number)))
  | .readFreq sym => .next (s.returned (.number (s.freqOf sym)))
  | .readOrder rank => .next (s.returned (.number (s.orderAt rank.toNat).toNat))
  | .readNode i => .next (s.returned (.nodeEntry (s.nodeAt i)))
  | .readCode sym => .next (s.returned (.codeEntry (s.codeOf sym)))
  | .readIbuf a =>
    if s.params.ibufCap ≤ a then .fault .noSuchByte
    else
      match Memory.read? s.ibuf a with
      | some v => .next (s.returned (.number v.toNat))
      | none => .refused .unspecifiedRead
  | .readObuf a =>
    if s.params.obufCap ≤ a then .fault .noSuchByte
    else if s.olen ≤ a then .refused .unspecifiedRead
    else
      match Memory.read? s.obuf a with
      | some v => .next (s.returned (.number v.toNat))
      | none => .refused .unspecifiedRead
  | .reset => .next s.afterReset

end Sys2Proof.Machine
end

