-- ==== Sys2Proof/Machine/Engine.lean ====
section
/-!
DEFINITION. One step of the engine: a command written to CMD (R225), or one stream record where the engine stands before one; and
the host's turn.
-/

namespace Sys2Proof.Machine

/-- `OnCmdWrite(w)` (R225). -/
def onCmdWrite (w : CmdWord) (s : State) : Host.Outcome State Fault Refusal :=
  match decodeCommand w with
  | some i => exec i s
  | none => .next (illegalCommand w s)

/-- The end of a command: BUSY falls (R27, R222) and CMD holds nothing (R29). -/
def State.endCommand (s : State) : State := { s with cmd := 0, status := { s.status with busy := false } }

/-- Applies a function to the next state of an outcome, if there is one. -/
def mapNext (f : State → State) (o : Host.Outcome State Fault Refusal) : Host.Outcome State Fault Refusal :=
  match o with
  | .next s => .next (f s)
  | .fault r => .fault r
  | .refused r => .refused r

/-- The command in CMD, whole (R13). -/
def commandStep (s : State) : Host.Outcome State Fault Refusal := mapNext State.endCommand (onCmdWrite s.cmd s)

/-- The place and bit index of the stream record the engine stands before, if it stands before one and no fault is recorded. On
empty input there is no header to read, and at a leaf the codeword is complete (R185), so there the engine stands before none (log 9). -/
def State.awaited (s : State) : Option (Place × Nat) :=
  if s.status.err then none
  else
    match s.reader with
    | .header => if s.ilen = 0 then none else some (.header, 0)
    | .tree cur _ => some (.tree, cur)
    | .walk _ cur i => if (s.nodeAt i).leaf && decide (i < s.nnode) then none else some (.payload, cur)
    | .idle | .treeDone _ _ => none

/-- The bits a record at bit `b` is read from: 8 for a header, at most 9 for a tree record and 1 for a payload bit, and none past
the end of the input, or of the payload. -/
def State.recordBits (s : State) (p : Place) (b : Nat) : Bits :=
  match p with
  | .header => s.inBits b (min 8 (8 * s.ilen - b))
  | .tree => s.inBits b (min 9 (8 * s.ilen - b))
  | .payload => s.inBits b (min 1 (s.pend - b))
  | .command | .padding => []

/-- No well-formed record stands there: a reserved header (R115 (a)), a tree record cut short (R183), a payload that ends inside a
codeword (R185). DESIGN CHOICE (log 9): a reserved header byte is treated as `execHdr` treats every header byte, which acts in phase
COUNT (there BadHeader is raised) and is refused in any other phase, of which the spec says nothing. -/
def noRecord (s : State) (b : Nat) : Host.Outcome State Fault Refusal :=
  match s.reader with
  | .header => execHdr (s.memRead 0) s
  | .tree _ _ => ((takeNode b s).bind fun _ s => Res.raised .malformedStream b s).recordOutcome
  | .walk start _ i =>
    if s.nnode ≤ i then .fault .nodeStoreNotATree
    else .next (s.leaveRecord.raise .malformedStream start)
  | .idle | .treeDone _ _ => .refused .recordOutOfPlace

/-- Reads the record at bit `b` and runs it. -/
def recordStep (p : Place) (b : Nat) (s : State) : Host.Outcome State Fault Refusal :=
  match decode p (s.recordBits p b) with
  | .instr i _ => exec i s
  | .rejected _ => noRecord s b

/-- The host's next move; with none to come the block is idle "with its state held" (R245). -/
def hostStep (s : State) : Host.Outcome State Fault Refusal :=
  match s.hostMoves with
  | [] => .next s
  | m :: rest => hostMove m { s with hostMoves := rest }

end Sys2Proof.Machine
end

