-- ==== Sys2Proof/Machine/Step.lean ====
section
/-!
DEFINITION. One step: the reset input, if it comes now; else the engine's, if a command is waiting in CMD or the engine stands before a
stream record; else the host's.
-/

namespace Sys2Proof.Machine

/-- One step of the machine (R13, R18, R85). The reset input may come at any time, and a command in CMD or a record the engine stands
before is then abandoned (R260; log 3); any other move of the host waits until the engine has nothing to do. -/
def step (s : State) : Host.Outcome State Fault Refusal :=
  if s.resetNext then hostStep s
  else if s.status.busy then commandStep s
  else
    match s.awaited with
    | some (p, b) => recordStep p b s
    | none => hostStep s

/-- No reset input comes next: a reset at the head of the moves would abandon the instruction that is being placed. -/
def State.withoutReset (s : State) : State := { s with hostMoves := s.hostMoves.dropWhile (· == .reset) }

/-- `s` with the instruction whose bits are `w` where `step` fetches its next one: a command word in CMD with BUSY raised; the
header byte in `IBUF[0]`; a tree record at bit 8 of IBUF (log 1, log 10). No reset comes first. -/
def State.withFetchWord (s : State) (nbits w : Nat) : State :=
  match tablePlace nbits with
  | .command => s.withoutReset.withCommand (BitVec.ofNat 16 w)
  | .header =>
    { s.withoutReset with
      status := { s.status with busy := false }, reader := .header, ibuf := Memory.write s.ibuf 0 (BitVec.ofNat 8 w),
      ilen := max 1 s.ilen }
  | .tree | .payload | .padding =>
    { s.withoutReset with
      status := { s.status with busy := false }, reader := .tree 8 [],
      ibuf := Memory.writeList s.ibuf 1 (packBytes ((nbits + 7) / 8) (bitsOfNat nbits w)),
      ilen := max (1 + (nbits + 7) / 8) s.ilen }

end Sys2Proof.Machine
end

