-- ==== Sys2Proof/Safety.lean ====
section
/-!
DEFINITION. What the claims are stated in: the spec's own views of a state (the output bit stream, the payload, the frequency
table's order), its invariants (R36, R39, R41, R25, R33), the end of a run (R277), and two reference algorithms of the spec
(first occurrences, R135; two queues, R145 (b)).
-/

namespace Sys2Proof.Machine

/-! ## Views of a state -/

/-- The symbols `ORDER[0..NSYM)` (R38). -/
def State.orderList (s : State) : List Byte := (List.range s.nsym).map s.orderAt

/-- The output `OBUF[0..OLEN)` (R31). An unwritten byte, of which there is none below OLEN (`State.MemOk`), shows as 0. -/
def State.outBytes (s : State) : List Byte := (List.range s.olen).map fun a => (Memory.read? s.obuf a).getD 0

/-- The bits waiting in ACC: its top ACCN bits (R36). -/
def State.waitingBits (s : State) : Bits := (bits8 s.acc).take s.accn.toNat

/-- The output bit stream so far (R36, R74): the bytes of the output and then the waiting bits. -/
def State.outBits (s : State) : Bits := s.outBytes.flatMap bits8 ++ s.waitingBits

/-- The registers of R23 but RCODE, each number with what a host reads there: CMD reads 0 (R29), STATUS has the layout of R27. -/
def State.registerMap (s : State) : List (Nat × Nat) :=
  [(0, 0),
    (1, 32 * s.status.phase.code.toNat + 16 * s.status.codev.toNat + 8 * s.status.rootv.toNat + 4 * s.status.empty.toNat
      + 2 * s.status.err.toNat + s.status.busy.toNat),
    (2, s.cause.code.toNat), (3, s.einfo), (4, s.ilen), (5, s.olen), (6, s.pad.toNat), (7, s.icur), (8, s.pstart),
    (9, s.pend), (10, s.nsym), (11, s.total), (12, s.nnode), (13, s.root), (14, s.acc.toNat), (15, s.accn.toNat),
    (16, s.rsym.toNat), (17, s.rcount), (18, s.rlen)]

/-- The rest of the payload: the input bits from ICUR up to PEND (R33). -/
def State.payloadLeft (s : State) : Bits := s.inBits s.icur (s.pend - s.icur)

/-- The codewords of a text, concatenated (R111). -/
def State.codewords (s : State) (text : List Byte) : Bits := text.flatMap fun sym => (s.codeOf sym).bits

/-- Every symbol of a text has a codeword. -/
def State.encodes (s : State) (text : List Byte) : Prop := ∀ sym ∈ text, (s.codeOf sym).valid = true

/-- The indices of the nodes under node `i`, in pre-order, at most `depth` levels deep. -/
def State.indicesAt (s : State) : (depth : Nat) → (i : Nat) → List Nat
  | 0, _ => []
  | depth + 1, i =>
    if (s.nodeAt i).leaf then [i] else i :: (s.indicesAt depth (s.nodeAt i).left ++ s.indicesAt depth (s.nodeAt i).right)

/-- A tree with every count 0, which is how a tree read from a stream stands in NODE (D14). -/
def Tree.uncounted : Tree → Tree
  | .leaf _ sym => .leaf 0 sym
  | .internal _ l r => .internal 0 l.uncounted r.uncounted

/-- Whether a tree is a single leaf. -/
def Tree.isLeaf : Tree → Bool
  | .leaf _ _ => true
  | .internal _ _ _ => false

/-- The leaves of a tree, left to right, as (count, symbol). -/
def Tree.leaves : Tree → List (Nat × Byte)
  | .leaf c sym => [(c, sym)]
  | .internal _ l r => l.leaves ++ r.leaves

/-- Every internal node's count is the sum of its children's counts (R40, R151 (c)). -/
def Tree.countsAdd : Tree → Prop
  | .leaf _ _ => True
  | .internal c l r => c = l.count + r.count ∧ l.countsAdd ∧ r.countsAdd

/-! ## Invariants -/

/-- What R7 asks of the OPEN parameters, and that EINFO can hold a command word, which R221 zero-extends to AW+3 bits (log 6). -/
structure Params.Valid (p : Params) : Prop where
  aw : 13 ≤ p.aw
  ibufCap_pos : 1 ≤ p.ibufCap
  ibufCap_le : p.ibufCap ≤ 2 ^ p.aw - 1
  obufCap_pos : 1 ≤ p.obufCap
  obufCap_le : p.obufCap ≤ 2 ^ p.aw - 1

/-- The frequency table (R39 (a), (b), (c); R133: no count wraps). -/
structure State.FreqOk (s : State) : Prop where
  nsym_le : s.nsym ≤ 256
  nodup : s.orderList.Nodup
  mem_iff : ∀ sym, sym ∈ s.orderList ↔ 1 ≤ s.freqOf sym
  total_eq : s.total = s.freq.toList.sum
  total_le : s.total ≤ s.params.countMax

/-- The memories: canonical form, no byte outside a buffer, the lengths in range (R30, R31), and every byte of the output
written. -/
structure State.MemOk (s : State) : Prop where
  ibuf_wf : Memory.wf s.ibuf
  obuf_wf : Memory.wf s.obuf
  ibuf_in : ∀ c ∈ s.ibuf, c.1 < s.params.ibufCap
  obuf_in : ∀ c ∈ s.obuf, c.1 < s.params.obufCap
  ilen_le : s.ilen ≤ s.params.ibufCap
  olen_le : s.olen ≤ s.params.obufCap
  written : ∀ a, a < s.olen → (Memory.read? s.obuf a).isSome

/-- What PHASE implies of the flags ROOTV, CODEV and EMPTY (R26, R27). -/
def Status.flagsOk (st : Status) : Prop :=
  match st.phase with
  | .count => st.rootv = false ∧ st.codev = false ∧ st.empty = false
  | .built => st.rootv = true ∧ st.codev = true ∧ st.empty = false
  | .stream => st.rootv = true ∧ st.codev = true ∧ st.empty = false
  | .closed => st.codev = true ∧ st.empty = !st.rootv
  | .hdr => st.rootv = false ∧ st.codev = false ∧ st.empty = false
  | .payload => st.rootv = true ∧ st.codev = true ∧ st.empty = false

/-- STATUS, CAUSE, EINFO (R27, R28, R221), and the model's own fields between steps: CMD holds nothing while BUSY is 0, and the
engine stands before no stream record. -/
structure State.StatusOk (s : State) : Prop where
  flags : s.status.flagsOk
  cause_iff : s.cause = .none ↔ s.status.err = false
  einfo_zero : s.cause = .none → s.einfo = 0
  cmd_zero : s.status.busy = false → s.cmd = 0
  reader_idle : s.reader = .idle

/-- The node store and the code table (R35, R41, R44): with ROOTV = 1 every entry below NNODE is under ROOT exactly once, and the
code table is that of the tree; else the code table is empty. -/
structure State.TreeOk (s : State) : Prop where
  nnode_le : s.nnode ≤ 511
  tree : s.status.rootv = true →
    ∃ t, s.tree? = some t ∧ t.size = s.nnode ∧ s.code = t.codeTable ∧
      (s.indicesAt Config.nodeCap s.root).Perm (List.range s.nnode)
  noTree : s.status.rootv = false → s.code = Vector.replicate 256 CodeEntry.invalid ∧ s.root = 0

/-- The input cursors (R25, R33), by phase. -/
def State.CursorOk (s : State) : Prop :=
  match s.status.phase with
  | .count => s.icur = 0 ∧ s.pstart = 0 ∧ s.pend = 0
  | .built => s.icur = 0 ∧ s.pstart = 0 ∧ s.pend = 0
  | .stream => s.icur = 0 ∧ s.pstart = 0 ∧ s.pend = 0
  | .closed => s.icur = 0 ∧ s.pstart = 0 ∧ s.pend = 0
  | .hdr => s.icur = 8 ∧ s.pstart = 0 ∧ s.pend = 0 ∧ 1 ≤ s.ilen
  | .payload => s.pstart ≤ s.icur ∧ s.icur ≤ s.pend ∧ s.pend + s.pad.toNat = 8 * s.ilen

/-- The accumulator (R36): the low `8 - ACCN` bits of ACC are 0. -/
def State.AccLowZero (s : State) : Prop := ∀ b ∈ (bits8 s.acc).drop s.accn.toNat, b = false

/-- The accumulator while no fault is recorded: R36, and nothing waits outside phase STREAM (R160, R168). -/
def State.AccOk (s : State) : Prop :=
  s.status.err = false → s.AccLowZero ∧ (s.status.phase ≠ .stream → s.acc = 0 ∧ s.accn = 0)

/-- The ranges of the registers that the other parts do not bound (R21, R22, R28). -/
structure State.RangeOk (s : State) : Prop where
  einfo_lt : s.einfo < 2 ^ (s.params.aw + 3)
  rcount_le : s.rcount ≤ s.params.countMax
  rlen_le : s.rlen ≤ 255
  rcode_len : s.rcode.length = s.rlen

/-- The machine's invariant. -/
structure State.Inv (s : State) : Prop where
  params : s.params.Valid
  freq : s.FreqOk
  mem : s.MemOk
  status : s.StatusOk
  tree : s.TreeOk
  cursor : s.CursorOk
  acc : s.AccOk
  range : s.RangeOk

/-! ## Runs -/

/-- The next step throws everything away: the block is reset, or it runs the CLR word. -/
def State.discards (s : State) : Bool :=
  s.resetNext || (s.status.busy && s.cmd == 0x0100#16)

/-- R277: a compression or a decompression has ended well. -/
def State.EndedWell (s : State) : Prop :=
  s.status.err = false ∧
    (s.status.phase = .closed ∨ (s.status.phase = .payload ∧ s.icur = s.pend))

/-- PHASE after a command that raised no fault (R26's table), from a state `s`. A stream record is no command. -/
def State.phaseAfter (s : State) : Instr → Phase
  | .clr => .count
  | .build => if s.nsym = 0 then .closed else .built
  | .sert => .stream
  | .fin => .closed
  | .ldhdr => if s.ilen = 0 then .closed else .hdr
  | .deser => .payload
  | .comp => .closed
  | .decomp => if s.ilen = 0 then .closed else .payload
  | .nop | .fadd _ | .faddt | .fcnt _ | .cwlk _ | .enc _ | .enct | .dec1 | .decall | .rewind => s.status.phase
  | .hdr _ | .leaf _ | .internal | .pbit _ | .padbit => s.status.phase

/-- A state after reset into which the host has loaded a text or a container (R118 HLOAD). -/
def State.loaded (p : Params) (content : List Byte) : State :=
  { State.initial p with ibuf := Memory.writeList [] 0 content, ilen := content.length }

/-- The state with a text loaded by the host (R118 HLOAD). -/
def State.withInput (s : State) (text : List Byte) : State :=
  { s with ibuf := Memory.writeList s.ibuf 0 text, ilen := text.length }

/-- One command after another, each by `exec`, the outcome of the last (R206). -/
def Outcome.andThen (o : Host.Outcome State Fault Refusal) (next : State → Host.Outcome State Fault Refusal) :
    Host.Outcome State Fault Refusal :=
  match o with
  | .next s => next s
  | .fault r => .fault r
  | .refused r => .refused r

/-- One way to encode symbols in phase STREAM: ENC of one, or ENCT of a text loaded first (R170). -/
inductive EncodeMove where
  | enc (sym : Byte)
  | enct (text : List Byte)
  deriving DecidableEq, Repr

/-- The symbols a move encodes. -/
def EncodeMove.text : EncodeMove → List Byte
  | .enc sym => [sym]
  | .enct text => text

/-- The command of a move, run. -/
def EncodeMove.run (m : EncodeMove) (s : State) : Host.Outcome State Fault Refusal :=
  match m with
  | .enc sym => exec (.enc sym) s
  | .enct text => exec .enct (s.withInput text)

/-- Any number of ENC and ENCT, in order (R170). -/
def encodeRun : List EncodeMove → State → Host.Outcome State Fault Refusal
  | [], s => .next s
  | m :: ms, s => Outcome.andThen (m.run s) (encodeRun ms)

/-- COMP as the sequence of separate commands (R203, R206). After a fault the later ones do nothing (R224). -/
def compParts (s : State) : Host.Outcome State Fault Refusal :=
  Outcome.andThen (exec .faddt s) fun s =>
    Outcome.andThen (exec .build s) fun s =>
      if s.status.empty then .next s
      else Outcome.andThen (exec .sert s) fun s => Outcome.andThen (exec .enct s) (exec .fin)

/-- DECOMP as the sequence of separate commands (R205, R206). -/
def decompParts (s : State) : Host.Outcome State Fault Refusal :=
  Outcome.andThen (exec .ldhdr s) fun s =>
    if s.status.empty then .next s else Outcome.andThen (exec .deser s) (exec .decall)

/-! ## Reference algorithms -/

/-- The symbols of a text that are not in `seen`, each once, in order of first occurrence (R135 (a)). -/
def firstSeen (seen : List Byte) : List Byte → List Byte
  | [] => []
  | sym :: text => if sym ∈ seen then firstSeen seen text else sym :: firstSeen (seen ++ [sym]) text

/-- Takes the next lowest of two queues: the first queue's front when the counts are equal (R145 (b)). -/
def takeLowest : List Tree → List Tree → Option (Tree × List Tree × List Tree)
  | [], [] => none
  | x :: q1, [] => some (x, q1, [])
  | [], y :: q2 => some (y, [], q2)
  | x :: q1, y :: q2 => if x.count ≤ y.count then some (x, q1, y :: q2) else some (y, x :: q1, q2)

/-- The two-queue construction of R145 (b): leaves in the first queue, merged nodes in the second. -/
def twoQueues : (fuel : Nat) → List Tree → List Tree → Option Tree
  | 0, _, _ => none
  | fuel + 1, q1, q2 =>
    match takeLowest q1 q2 with
    | none => none
    | some (a, q1, q2) =>
      match takeLowest q1 q2 with
      | none => some a
      | some (b, q1, q2) => twoQueues fuel q1 (q2 ++ [Tree.internal (a.count + b.count) a b])

/-- The leaves of the frequency table in insertion order (R141). -/
def State.leafTrees (s : State) : List Tree := s.orderList.map fun sym => Tree.leaf (s.freqOf sym) sym

/-- The tree of a frequency table by two queues, its leaves stably sorted by count (R145 (b)). -/
def State.twoQueueTree (s : State) : Option Tree :=
  twoQueues s.nsym (s.leafTrees.mergeSort fun a b => decide (a.count ≤ b.count)) []

end Sys2Proof.Machine
end

