-- ==== Sys2Proof/Certificates/Slice0/Obligations.lean ====
section
/-!
DEFINITION. The statements for the provers, each a `def Obligations.<Name> : Prop`. A docstring names the rules of spec/ a
statement comes from and, where it rests on a choice of the model, the log entry.
-/

open Sys2Proof Sys2Proof.Machine

/-! ## Encoding -/

/-- R100 to R112: an instruction's bits, with any bits after them, read back as that instruction. Every operand at every value. -/
def Obligations.DecodeInvertsEncode : Prop :=
  ∀ (i : Instr) (rest : Bits), WellFormed i = true → decode i.place (encode i ++ rest) = .instr i rest

/-- R101, R103: a legal command word is the word of the one command it decodes to. -/
def Obligations.CommandWordIsUnique : Prop :=
  ∀ (w : CmdWord) (i : Instr), decodeCommand w = some i → commandWord i = w ∧ i.place = .command

/-- R101, R104: exactly the words whose opcode is outside R103's table, and the format-N words with a non-zero low byte, are
illegal. -/
def Obligations.IllegalWordsAreTheReserved : Prop :=
  ∀ w : CmdWord,
    decodeCommand w = none ↔
      ((w >>> 8).toNat ∉ [0x00, 0x01, 0x11, 0x20, 0x30, 0x32, 0x33, 0x40, 0x41, 0x42, 0x43, 0x44, 0x50, 0x51] ∨
          w.setWidth 8 ≠ 0#8) ∧
        (w >>> 8).toNat ∉ [0x10, 0x12, 0x21, 0x31]

/-- R103, R107 to R109: words and records written out from the spec's tables decode to what they stand for. -/
def Obligations.WrittenOutWordsDecode : Prop :=
  decodeCommand 0x0000 = some .nop ∧ decodeCommand 0x0100 = some .clr ∧ decodeCommand 0x1061 = some (.fadd 0x61) ∧
    decodeCommand 0x12FF = some (.fcnt 0xFF) ∧ decodeCommand 0x2000 = some .build ∧
    decodeCommand 0x2178 = some (.cwlk 0x78) ∧ decodeCommand 0x3163 = some (.enc 0x63) ∧
    decodeCommand 0x3300 = some .fin ∧ decodeCommand 0x4100 = some .deser ∧ decodeCommand 0x5100 = some .decomp ∧
    decodeCommand 0x1101 = none ∧ decodeCommand 0x1300 = none ∧ decodeTableWord 8 0x07 = some (.hdr 7) ∧
    decodeTableWord 8 0x08 = none ∧ decodeTableWord 9 0x061 = some (.leaf 0x61) ∧ decodeTableWord 1 1 = some .internal

/-! ## A step, the common checks and the phases -/

/-- R13, R225, R29, R27: with a command waiting and no reset input (R260), a step runs the command its word decodes to, and then CMD
holds nothing and BUSY is 0 (log 2, log 3). -/
def Obligations.StepRunsCommand : Prop :=
  ∀ (s : State) (i : Instr), s.resetNext = false → s.status.busy = true → decodeCommand s.cmd = some i →
    step s = mapNext (fun t => { t with cmd := 0, status := { t.status with busy := false } }) (exec i s)

/-- R88, R114 (log 9): where the engine stands before a stream record and no reset input comes (R260, log 3), a step runs the record that the
input's bits spell, and adds nothing around it. -/
def Obligations.StepRunsRecord : Prop :=
  ∀ (s : State) (p : Place) (b : Nat) (i : Instr) (rest : Bits), s.resetNext = false → s.status.busy = false →
    s.awaited = some (p, b) → decode p (s.recordBits p b) = .instr i rest → step s = exec i s

/-- R228, R104: an illegal word raises IllegalCommand with the word and changes nothing else (CMD and BUSY fall as at the end of
every command, log 2), unless the reset input comes (R260, log 3). -/
def Obligations.IllegalWordFaults : Prop :=
  ∀ s : State, s.resetNext = false → s.status.busy = true → s.status.err = false → decodeCommand s.cmd = none →
    step s = .next { s with
      cmd := 0, status := { s.status with busy := false, err := true }, cause := .illegalCommand, einfo := s.cmd.toNat }

/-- R224: while a fault is recorded every word but CLR's, legal or not, changes nothing (CMD and BUSY fall as at the end of every
command, log 2), unless the reset input comes (R260, log 3). -/
def Obligations.RecordedFaultIgnoresCommands : Prop :=
  ∀ s : State, s.resetNext = false → s.status.busy = true → s.status.err = true → s.cmd ≠ 0x0100#16 →
    step s = .next { s with cmd := 0, status := { s.status with busy := false } }

/-- R229, R225 step 3: a command out of phase raises PhaseError with its word and changes nothing else. -/
def Obligations.OutOfPhaseFaults : Prop :=
  ∀ (s : State) (i : Instr), i.place = .command → s.status.err = false → s.status.permits i = false →
    exec i s = .next { s with
      status := { s.status with err := true }, cause := .phaseError, einfo := (commandWord i).toNat }

/-- R26: the commands legal in each phase, besides NOP, CLR and FCNT; CWLK is legal exactly when CODEV = 1. -/
def Obligations.LegalCommandsByPhase : Prop :=
  ∀ (st : Status) (i : Instr), i.place = .command →
    (st.permits i = true ↔
      i = .nop ∨ i = .clr ∨ (∃ sym, i = .fcnt sym) ∨ (st.codev = true ∧ ∃ sym, i = .cwlk sym) ∨
        match st.phase with
        | .count => (∃ sym, i = .fadd sym) ∨ i = .faddt ∨ i = .build ∨ i = .ldhdr ∨ i = .comp ∨ i = .decomp
        | .built => i = .sert
        | .stream => (∃ sym, i = .enc sym) ∨ i = .enct ∨ i = .fin
        | .closed => False
        | .hdr => i = .deser
        | .payload => i = .dec1 ∨ i = .decall ∨ i = .rewind)

/-- R26: a command that raises no fault leads to the phase of R26's table. -/
def Obligations.PhaseFollowsTable : Prop :=
  ∀ (s t : State) (i : Instr), s.status.flagsOk → s.status.err = false → i.place = .command → exec i s = .next t →
    t.status.err = false → t.status.phase = s.phaseAfter i

/-- R26, R222: a single command that raises a fault leaves PHASE as it was, and records a cause. -/
def Obligations.FaultKeepsPhase : Prop :=
  ∀ (s t : State) (i : Instr), s.status.err = false → i.place = .command → i ≠ .comp → i ≠ .decomp →
    exec i s = .next t → t.status.err = true → t.status.phase = s.status.phase ∧ t.cause ≠ .none

/-! ## Reset, CLR, NOP and the host -/

/-- R49: the values after reset. -/
def Obligations.ResetValues : Prop :=
  State.reset.status.toByte = 0x00 ∧ State.reset.cause.code = 0 ∧ State.reset.einfo = 0 ∧ State.reset.cmd = 0 ∧
    State.reset.ilen = 0 ∧ State.reset.olen = 0 ∧ State.reset.pad = 0 ∧ State.reset.icur = 0 ∧ State.reset.pstart = 0 ∧
    State.reset.pend = 0 ∧ State.reset.nsym = 0 ∧ State.reset.total = 0 ∧ State.reset.nnode = 0 ∧ State.reset.root = 0 ∧
    State.reset.acc = 0 ∧ State.reset.accn = 0 ∧ State.reset.rsym = 0 ∧ State.reset.rcount = 0 ∧ State.reset.rlen = 0 ∧
    State.reset.rcode = [] ∧ (∀ sym, State.reset.freqOf sym = 0) ∧ (∀ i, i < 256 → State.reset.orderAt i = 0) ∧
    (∀ i, i < 511 → State.reset.nodeAt i = { leaf := false, sym := 0, left := 0, right := 0, count := 0 }) ∧
    (∀ sym, State.reset.codeOf sym = { valid := false, len := 0, bits := [] })

/-- R201, R202, R260: CLR, in every state, and the reset input, at any time, leave every register and register file entry at its reset
value. The reset input is taken whether or not a command waits in CMD or the engine stands inside a record, which it abandons (log 3).
CLR leaves the buffers as they were, after the reset input they hold nothing that can be known (log 4). -/
def Obligations.ClrAndResetDiscardAll : Prop :=
  (∀ s : State, exec .clr s = .next { State.initial s.params with
    ibuf := s.ibuf, obuf := s.obuf, hostMoves := s.hostMoves, hostData := s.hostData, epoch := s.epoch }) ∧
    ∀ (s : State) (rest : List HostMove), s.hostMoves = .reset :: rest →
      step s = .next { State.initial s.params with hostMoves := rest, epoch := s.epoch + 1 }

/-- R200: NOP has the word 0x0000 and changes no state, whatever the phase and whether or not a fault is recorded. -/
def Obligations.NopChangesNothing : Prop :=
  commandWord .nop = 0x0000#16 ∧ ∀ s : State, exec .nop s = .next s

/-- R73, R70: a step that throws nothing away changes neither IBUF nor ILEN while the input lock is closed; and no command writes
IBUF. -/
def Obligations.InputIsLockedWhileDecoding : Prop :=
  ∀ s t : State, step s = .next t → s.discards = false →
    (s.status.inputLocked = true → t.ibuf = s.ibuf ∧ t.ilen = s.ilen) ∧ (s.status.busy = true → t.ibuf = s.ibuf)

/-- R22, R23, R27, R29, R30, R73, R278: what a move of the host does when the engine is idle. A write of a word to CMD puts it there and raises
BUSY; a write of ILEN takes effect up to IBUF_CAP and with the input lock open, and is ignored otherwise; a write of any other register is
ignored (U19); a byte written to IBUF stands there if the lock is open, and is ignored otherwise; a read returns the register, file entry
or byte, STATUS in the layout of R27 and RCODE as the 255-bit word of R22, and 0 for CMD and the unassigned numbers; a read of an
unspecified byte is refused (R49, U15). Nothing else changes. The model's choices in it: the host's moves are a list in State (log 1), the
command written to CMD runs in the next step (log 2), what a read returned stands in hostData (log 15), and the host may write every byte
of IBUF below IBUF_CAP, also at or above ILEN (log 20, which no rule states). -/
def Obligations.HostPortReadsAndWrites : Prop :=
  ∀ (s : State) (rest : List HostMove), s.status.busy = false → s.awaited = none →
    (∀ w : CmdWord, s.hostMoves = .writeReg 0 w.toNat :: rest →
      step s = .next { s with hostMoves := rest, cmd := w, status := { s.status with busy := true } }) ∧
    (∀ n, s.hostMoves = .writeReg 4 n :: rest →
      step s = .next { s with
        hostMoves := rest,
        ilen := if n ≤ s.params.ibufCap ∧ s.status.phase ≠ .hdr ∧ s.status.phase ≠ .payload then n else s.ilen }) ∧
    (∀ number value, s.hostMoves = .writeReg number value :: rest → number ≠ 0 → number ≠ 4 →
      step s = .next { s with hostMoves := rest }) ∧
    (∀ a v, s.hostMoves = .writeIbuf a v :: rest → a < s.params.ibufCap → s.status.phase ≠ .hdr →
      s.status.phase ≠ .payload →
      ∃ t, step s = .next t ∧ Memory.read? t.ibuf a = some v ∧
        (∀ b, b ≠ a → Memory.read? t.ibuf b = Memory.read? s.ibuf b) ∧ t = { s with hostMoves := rest, ibuf := t.ibuf }) ∧
    (∀ a v, s.hostMoves = .writeIbuf a v :: rest → a < s.params.ibufCap →
      s.status.phase = .hdr ∨ s.status.phase = .payload → step s = .next { s with hostMoves := rest }) ∧
    (∀ number value, s.hostMoves = .readReg number :: rest →
      (number, value) ∈ s.registerMap ∨ (20 ≤ number ∧ value = 0) →
      step s = .next { s with hostMoves := rest, hostData := .number value }) ∧
    (s.hostMoves = .readReg 19 :: rest →
      ∃ w, step s = .next { s with hostMoves := rest, hostData := .number w } ∧ w < 2 ^ 255 ∧
        ∀ i, i < 255 → w.testBit (254 - i) = s.rcode.getD i false) ∧
    (∀ sym, s.hostMoves = .readFreq sym :: rest →
      step s = .next { s with hostMoves := rest, hostData := .number (s.freqOf sym) }) ∧
    (∀ rank, s.hostMoves = .readOrder rank :: rest →
      step s = .next { s with hostMoves := rest, hostData := .number (s.orderAt rank.toNat).toNat }) ∧
    (∀ i, s.hostMoves = .readNode i :: rest →
      step s = .next { s with hostMoves := rest, hostData := .nodeEntry (s.nodeAt i) }) ∧
    (∀ sym, s.hostMoves = .readCode sym :: rest →
      step s = .next { s with hostMoves := rest, hostData := .codeEntry (s.codeOf sym) }) ∧
    (∀ a, s.hostMoves = .readIbuf a :: rest → a < s.params.ibufCap →
      (∀ v, Memory.read? s.ibuf a = some v →
        step s = .next { s with hostMoves := rest, hostData := .number v.toNat }) ∧
      (Memory.read? s.ibuf a = none → step s = .refused .unspecifiedRead)) ∧
    (∀ a, s.hostMoves = .readObuf a :: rest → a < s.params.obufCap →
      (∀ v, a < s.olen → Memory.read? s.obuf a = some v →
        step s = .next { s with hostMoves := rest, hostData := .number v.toNat }) ∧
      (s.olen ≤ a → step s = .refused .unspecifiedRead))

/-! ## The frequency table -/

/-- R131, R130, R133: FADD has the word 0x10ss and is legal in phase COUNT only. It adds one to the symbol's count and to TOTAL, and appends a
symbol not seen before to ORDER; with TOTAL at its largest it raises CountOverflow with the symbol instead. Nothing else changes. -/
def Obligations.FaddCountsSymbol : Prop :=
  ∀ (s : State) (sym : Byte), s.status.err = false →
    commandWord (.fadd sym) = 0x10#8 ++ sym ∧
    (s.status.phase = .count → s.total < s.params.countMax → (s.freqOf sym = 0 → s.nsym < 256) →
      ∃ t, exec (.fadd sym) s = .next t ∧ t.freqOf sym = s.freqOf sym + 1 ∧
        (∀ other, other ≠ sym → t.freqOf other = s.freqOf other) ∧ t.total = s.total + 1 ∧
        t.orderList = (if s.freqOf sym = 0 then s.orderList ++ [sym] else s.orderList) ∧
        t = { s with freq := t.freq, order := t.order, nsym := t.nsym, total := t.total }) ∧
    (s.status.phase = .count → s.total = s.params.countMax →
      exec (.fadd sym) s = .next { s with
        status := { s.status with err := true }, cause := .countOverflow, einfo := sym.toNat }) ∧
    (s.status.phase ≠ .count →
      exec (.fadd sym) s = .next { s with
        status := { s.status with err := true }, cause := .phaseError, einfo := (0x10#8 ++ sym).toNat })

/-- R132, R135 (a): FADDT adds every byte of the input, in order: counts are occurrences, ORDER grows by the first occurrences.
Nothing else changes. -/
def Obligations.FaddtCountsText : Prop :=
  ∀ s : State, s.FreqOk → s.status.err = false → s.status.phase = .count → s.total + s.ilen ≤ s.params.countMax →
    ∃ t, exec .faddt s = .next t ∧ (∀ sym, t.freqOf sym = s.freqOf sym + s.inputText.count sym) ∧
      t.orderList = s.orderList ++ firstSeen s.orderList s.inputText ∧ t.total = s.total + s.ilen ∧
      t = { s with freq := t.freq, order := t.order, nsym := t.nsym, total := t.total }

/-- R132, R133, R223: FADDT stops at the first byte that would take TOTAL past its largest value; the bytes before it stay
counted. -/
def Obligations.FaddtOverflowKeepsCounted : Prop :=
  ∀ (s : State) (sym : Byte) (rest : List Byte), s.FreqOk → s.status.err = false → s.status.phase = .count →
    s.inputText.drop (s.params.countMax - s.total) = sym :: rest →
    ∃ t, exec .faddt s = .next t ∧ t.status = { s.status with err := true } ∧ t.cause = .countOverflow ∧
      t.einfo = sym.toNat ∧ t.total = s.params.countMax ∧
      (∀ x, t.freqOf x = s.freqOf x + (s.inputText.take (s.params.countMax - s.total)).count x) ∧
      t = { s with
        freq := t.freq, order := t.order, nsym := t.nsym, total := t.total, status := t.status, cause := t.cause,
        einfo := t.einfo }

/-- R134: FCNT has the word 0x12ss, is legal in every phase and sets RCOUNT to the symbol's count, 0 for one never seen; nothing else
changes. -/
def Obligations.FcntReadsCount : Prop :=
  ∀ (s : State) (sym : Byte), commandWord (.fcnt sym) = 0x12#8 ++ sym ∧
    (s.status.err = false → exec (.fcnt sym) s = .next { s with rcount := s.freqOf sym })

/-- R39 (a), (b), (c): the frequency table's invariant is kept by every step. -/
def Obligations.StepKeepsFrequencyTable : Prop :=
  ∀ s t : State, s.FreqOk → step s = .next t → t.FreqOk

/-- R39 (d): no step but CLR and reset lowers a count, NSYM or TOTAL, or reorders ORDER. -/
def Obligations.FrequencyTableNeverShrinks : Prop :=
  ∀ s t : State, step s = .next t → s.discards = false →
    (∀ sym, s.freqOf sym ≤ t.freqOf sym) ∧ s.nsym ≤ t.nsym ∧ s.total ≤ t.total ∧ s.orderList <+: t.orderList

/-! ## The tree and the code table -/

/-- R149, R182, R203, R205: with nothing to compress BUILD and COMP, and with nothing to decompress LDHDR and DECOMP, set OLEN to 0, EMPTY and
CODEV, go to CLOSED, and change nothing else; no fault is raised. -/
def Obligations.EmptyShortCircuits : Prop :=
  ∀ s : State, s.status.err = false → s.status.phase = .count →
    (s.nsym = 0 → exec .build s = .next { s with
      olen := 0, status := { s.status with empty := true, codev := true, phase := .closed } }) ∧
    (s.ilen = 0 → exec .ldhdr s = .next { s with
      olen := 0, status := { s.status with empty := true, codev := true, phase := .closed } }) ∧
    (s.nsym = 0 → s.ilen = 0 → exec .comp s = .next { s with
      olen := 0, status := { s.status with empty := true, codev := true, phase := .closed } }) ∧
    (s.ilen = 0 → exec .decomp s = .next { s with
      olen := 0, status := { s.status with empty := true, codev := true, phase := .closed } })

/-- R140, R141, R144: BUILD of a table of `n >= 1` symbols makes `2n - 1` nodes, the leaves first in insertion order and the root last;
it changes nothing but the node store, the code table and STATUS. -/
def Obligations.BuildLaysOutNodes : Prop :=
  ∀ s : State, s.FreqOk → s.status.err = false → s.status.phase = .count → 1 ≤ s.nsym →
    ∃ t, exec .build s = .next t ∧ t.nnode = 2 * s.nsym - 1 ∧ t.root = 2 * s.nsym - 2 ∧
      (∀ i, i < s.nsym → t.nodeAt i =
        { leaf := true, sym := s.orderAt i, left := 0, right := 0, count := s.freqOf (s.orderAt i) }) ∧
      t = { s with
        nodes := t.nodes, nnode := t.nnode, root := t.root, code := t.code,
        status := { s.status with rootv := true, codev := true, phase := .built } }

/-- R145 (b), R142, R143: the tree BUILD makes by repeated stable sort and merge is the tree of the two-queue construction, counts
included. -/
def Obligations.BuildAgreesWithTwoQueues : Prop :=
  ∀ s : State, s.FreqOk → s.status.err = false → s.status.phase = .count → 1 ≤ s.nsym →
    ∃ t tree, exec .build s = .next t ∧ t.tree? = some tree ∧ s.twoQueueTree = some tree

/-- R151 (b), (c): the leaves of the tree BUILD makes are the symbols of the table with their counts, each once; every internal
count is the sum of its children's; the root's count is TOTAL. -/
def Obligations.BuiltTreeCountsTheTable : Prop :=
  ∀ s : State, s.FreqOk → s.status.err = false → s.status.phase = .count → 1 ≤ s.nsym →
    ∃ t tree, exec .build s = .next t ∧ t.tree? = some tree ∧
      tree.leaves.Perm (s.orderList.map fun sym => (s.freqOf sym, sym)) ∧ tree.countsAdd ∧ tree.count = s.total

/-- R45, R151 (a), R146: after BUILD exactly the symbols of the table have a codeword, LEN is its length, and no symbol's codeword
is a prefix of another's. -/
def Obligations.BuiltCodeIsPrefixFree : Prop :=
  ∀ s : State, s.FreqOk → s.status.err = false → s.status.phase = .count → 1 ≤ s.nsym →
    ∃ t, exec .build s = .next t ∧ (∀ a, (t.codeOf a).valid = true ↔ 1 ≤ s.freqOf a) ∧
      (∀ a, (t.codeOf a).len = (t.codeOf a).bits.length ∧ (t.codeOf a).len ≤ 255) ∧
      ∀ a b, a ≠ b → (t.codeOf a).valid = true → (t.codeOf b).valid = true → ¬ (t.codeOf a).bits <+: (t.codeOf b).bits

/-- R148: CWLK has the word 0x21ss and is legal when CODEV = 1. It returns the symbol's codeword in RLEN and RCODE, or raises UnknownSymbol
and leaves them; nothing else changes. -/
def Obligations.CwlkReturnsCodeword : Prop :=
  ∀ (s : State) (sym : Byte), s.status.err = false →
    commandWord (.cwlk sym) = 0x21#8 ++ sym ∧
    (s.status.codev = true → (s.codeOf sym).valid = true →
      exec (.cwlk sym) s = .next { s with rlen := (s.codeOf sym).len, rcode := (s.codeOf sym).bits }) ∧
    (s.status.codev = true → (s.codeOf sym).valid = false →
      exec (.cwlk sym) s = .next { s with
        status := { s.status with err := true }, cause := .unknownSymbol, einfo := sym.toNat }) ∧
    (s.status.codev = false →
      exec (.cwlk sym) s = .next { s with
        status := { s.status with err := true }, cause := .phaseError, einfo := (0x21#8 ++ sym).toNat })

/-- R267: once there is a tree, no step but CLR and reset changes the node store or the code table. -/
def Obligations.TreeAndCodeNeverChange : Prop :=
  ∀ s t : State, s.StatusOk → s.status.rootv = true → step s = .next t → s.discards = false →
    t.nodes = s.nodes ∧ t.nnode = s.nnode ∧ t.root = s.root ∧ t.code = s.code ∧ t.status.rootv = true

/-! ## The encoder -/

/-- R160, R161: SERT of a tree that fits opens the stream: a zero header byte and then the tree's records, the last bits waiting in
ACC. Nothing else changes, and no byte of OBUF at or above the new OLEN. -/
def Obligations.SertWritesTree : Prop :=
  ∀ (s : State) (tree : Tree), s.status.err = false → s.status.phase = .built → s.tree? = some tree →
    1 + tree.ser.length / 8 ≤ s.params.obufCap →
    ∃ t, exec .sert s = .next t ∧ t.outBits = bits8 0x00 ++ tree.ser ∧ t.olen = 1 + tree.ser.length / 8 ∧
      t.accn.toNat = tree.ser.length % 8 ∧ t.AccLowZero ∧
      (∀ a, t.olen ≤ a → Memory.read? t.obuf a = Memory.read? s.obuf a) ∧
      t = { s with
        obuf := t.obuf, olen := t.olen, acc := t.acc, accn := t.accn, status := { s.status with phase := .stream } }

/-- R164, R77: ENC appends the symbol's codeword to the output bit stream. Nothing else changes, and no byte of OBUF but those the
codeword fills. -/
def Obligations.EncAppendsCodeword : Prop :=
  ∀ (s : State) (sym : Byte), s.status.err = false → s.status.phase = .stream → s.AccLowZero →
    (s.codeOf sym).valid = true →
    s.olen + (s.accn.toNat + (s.codeOf sym).bits.length) / 8 ≤ s.params.obufCap →
    ∃ t, exec (.enc sym) s = .next t ∧ t.outBits = s.outBits ++ (s.codeOf sym).bits ∧
      t.olen = s.olen + (s.accn.toNat + (s.codeOf sym).bits.length) / 8 ∧
      t.accn.toNat = (s.accn.toNat + (s.codeOf sym).bits.length) % 8 ∧ t.AccLowZero ∧
      (∀ a, a < s.olen ∨ t.olen ≤ a → Memory.read? t.obuf a = Memory.read? s.obuf a) ∧
      t = { s with obuf := t.obuf, olen := t.olen, acc := t.acc, accn := t.accn }

/-- R164: ENC of a symbol with no codeword raises UnknownSymbol before any bit is put. -/
def Obligations.EncUnknownSymbolFaults : Prop :=
  ∀ (s : State) (sym : Byte), s.status.err = false → s.status.phase = .stream → (s.codeOf sym).valid = false →
    exec (.enc sym) s = .next { s with
      status := { s.status with err := true }, cause := .unknownSymbol, einfo := sym.toNat }

/-- R77, R162: when the eighth waiting bit does not fit OBUF, ENC raises OutputOverflow; the bit has been placed in ACC, and OLEN, ACCN and
OBUF are unchanged. -/
def Obligations.EncOverflowKeepsBytes : Prop :=
  ∀ (s : State) (sym : Byte) (b : Bool) (rest : Bits), s.status.err = false → s.status.phase = .stream →
    s.codeOf sym = { valid := true, len := rest.length + 1, bits := b :: rest } → s.accn = 7 →
    s.olen = s.params.obufCap →
    exec (.enc sym) s = .next { s with
      acc := s.acc ||| (BitVec.ofBool b).setWidth 8, status := { s.status with err := true }, cause := .outputOverflow,
      einfo := s.params.obufCap }

/-- R166: ENCT appends the codewords of the input text, in order, with nothing between. Nothing else changes, and no byte of OBUF but
those the codewords fill. -/
def Obligations.EnctAppendsCodewords : Prop :=
  ∀ s : State, s.status.err = false → s.status.phase = .stream → s.AccLowZero → s.encodes s.inputText →
    s.olen + (s.accn.toNat + (s.codewords s.inputText).length) / 8 ≤ s.params.obufCap →
    ∃ t, exec .enct s = .next t ∧ t.outBits = s.outBits ++ s.codewords s.inputText ∧
      t.olen = s.olen + (s.accn.toNat + (s.codewords s.inputText).length) / 8 ∧
      t.accn.toNat = (s.accn.toNat + (s.codewords s.inputText).length) % 8 ∧ t.AccLowZero ∧
      (∀ a, a < s.olen ∨ t.olen ≤ a → Memory.read? t.obuf a = Memory.read? s.obuf a) ∧
      t = { s with obuf := t.obuf, olen := t.olen, acc := t.acc, accn := t.accn }

/-- R166, R223, R226: ENCT stops at the first byte with no codeword; the codewords before it stay written. -/
def Obligations.EnctUnknownSymbolKeepsWritten : Prop :=
  ∀ (s : State) (before rest : List Byte) (sym : Byte), s.status.err = false → s.status.phase = .stream →
    s.AccLowZero → s.inputText = before ++ sym :: rest → s.encodes before → (s.codeOf sym).valid = false →
    s.olen + (s.accn.toNat + (s.codewords before).length) / 8 ≤ s.params.obufCap →
    ∃ t, exec .enct s = .next t ∧ t.outBits = s.outBits ++ s.codewords before ∧ t.cause = .unknownSymbol ∧
      t.einfo = sym.toNat ∧
      (∀ a, a < s.olen ∨ t.olen ≤ a → Memory.read? t.obuf a = Memory.read? s.obuf a) ∧
      t = { s with
        obuf := t.obuf, olen := t.olen, acc := t.acc, accn := t.accn, status := { s.status with err := true },
        cause := t.cause, einfo := t.einfo }

/-- R168: FIN pads the waiting bits with zeros to a byte, writes the padding count over the header byte and closes the stream; nothing
else changes, and no byte of OBUF but the header and the last one. When the last partial byte does not fit it raises OutputOverflow and
changes nothing, the header and PAD included. -/
def Obligations.FinPadsAndBackfills : Prop :=
  ∀ s : State, s.status.err = false → s.status.phase = .stream → s.AccLowZero → 1 ≤ s.olen →
    ((s.accn = 0 ∨ s.olen < s.params.obufCap) →
      ∃ t, exec .fin s = .next t ∧ t.pad.toNat = (8 - s.accn.toNat) % 8 ∧
        t.outBits = bits8 (t.pad.setWidth 8) ++ s.outBits.drop 8 ++ List.replicate t.pad.toNat false ∧
        t.olen = s.olen + (if s.accn = 0 then 0 else 1) ∧ t.acc = 0 ∧ t.accn = 0 ∧
        (∀ a, a ≠ 0 → (a ≠ s.olen ∨ s.accn = 0) → Memory.read? t.obuf a = Memory.read? s.obuf a) ∧
        t = { s with
          obuf := t.obuf, olen := t.olen, acc := t.acc, accn := t.accn, pad := t.pad,
          status := { s.status with phase := .closed } }) ∧
    (s.accn ≠ 0 → s.olen = s.params.obufCap →
      exec .fin s = .next { s with
        status := { s.status with err := true }, cause := .outputOverflow, einfo := s.olen })

/-- R169, R170: after SERT, any number of ENC and ENCT, and FIN, the output is the header, the tree, the codewords in order and the zero
padding, with `8 + T + L + PAD = 8 * OLEN`; if it fits OBUF, none of the commands faults. -/
def Obligations.ContainerContent : Prop :=
  ∀ (s : State) (tree : Tree) (moves : List EncodeMove), s.status.err = false → s.status.phase = .built →
    s.tree? = some tree → s.encodes (moves.flatMap EncodeMove.text) →
    1 + (tree.ser.length + (s.codewords (moves.flatMap EncodeMove.text)).length + 7) / 8 ≤ s.params.obufCap →
    ∃ s1 s2 t, exec .sert s = .next s1 ∧ encodeRun moves s1 = .next s2 ∧ exec .fin s2 = .next t ∧
      t.status.err = false ∧
      t.outBytes.flatMap bits8 =
        bits8 (t.pad.setWidth 8) ++ tree.ser ++ s.codewords (moves.flatMap EncodeMove.text) ++
          List.replicate t.pad.toNat false ∧
      (tree.ser.length + (s.codewords (moves.flatMap EncodeMove.text)).length + t.pad.toNat) % 8 = 0 ∧
      8 + tree.ser.length + (s.codewords (moves.flatMap EncodeMove.text)).length + t.pad.toNat = 8 * t.olen

/-! ## The decoder -/

/-- R181, R107, R115 (a): with input present, LDHDR in phase COUNT reads the header byte: 0 to 7 is the padding count, and the cursor goes
past it; 8 to 255 raises BadHeader. The record HDR (log 9) has that same effect for its own byte. Nothing else changes. -/
def Obligations.LdhdrReadsHeader : Prop :=
  ∀ (s : State) (v : Byte), s.status.err = false → s.status.phase = .count →
    (1 ≤ s.ilen → (s.memRead 0).toNat < 8 → exec .ldhdr s = .next { s with
      pad := (s.memRead 0).setWidth 3, icur := 8, status := { s.status with phase := .hdr } }) ∧
    (1 ≤ s.ilen → 8 ≤ (s.memRead 0).toNat → exec .ldhdr s = .next { s with
      status := { s.status with err := true }, cause := .badHeader, einfo := (s.memRead 0).toNat }) ∧
    (v.toNat < 8 → exec (.hdr v) s = .next { s with
      pad := v.setWidth 3, icur := 8, status := { s.status with phase := .hdr }, reader := .idle }) ∧
    (8 ≤ v.toNat → exec (.hdr v) s = .next { s with
      status := { s.status with err := true }, cause := .badHeader, einfo := v.toNat, reader := .idle })

/-- R183, R184, R146, R192 (d): DESER of the serialization of any tree of at most 511 nodes builds that tree, its counts 0, moves the cursor by
exactly its bits, delimits the payload and derives the code table. Nothing else changes. -/
def Obligations.DeserRebuildsTree : Prop :=
  ∀ (s : State) (tree : Tree), s.status.err = false → s.status.phase = .hdr → tree.size ≤ 511 →
    s.inBits s.icur tree.ser.length = tree.ser → s.icur + tree.ser.length + s.pad.toNat ≤ 8 * s.ilen →
    ∃ t, exec .deser s = .next t ∧ t.tree? = some tree.uncounted ∧ t.nnode = tree.size ∧ t.root = 0 ∧
      t.icur = s.icur + tree.ser.length ∧ t.pstart = t.icur ∧ t.pend = 8 * s.ilen - s.pad.toNat ∧ t.olen = 0 ∧
      t.code = tree.codeTable ∧
      t = { s with
        nodes := t.nodes, nnode := t.nnode, root := t.root, icur := t.icur, pstart := t.pstart, pend := t.pend,
        olen := t.olen, code := t.code, status := { s.status with rootv := true, codev := true, phase := .payload } }

/-- R183, R223, R207: DESER always ends, and when it faults it leaves everything but NODE, NNODE, ERR, CAUSE and EINFO as it was. -/
def Obligations.DeserFaultKeepsRegisters : Prop :=
  ∀ s : State, s.status.err = false → s.status.phase = .hdr →
    ∃ t, exec .deser s = .next t ∧
      (t.status.err = true →
        (t.cause = .malformedStream ∨ t.cause = .nodeOverflow) ∧
          t = { s with
            nodes := t.nodes, nnode := t.nnode, status := { s.status with err := true }, cause := t.cause,
            einfo := t.einfo })

/-- R184: the payload begins at the bit after the tree and ends where the header's padding count of bits is left; a whole tree with fewer
bits than that after it raises MalformedStream at the bit where the tree ended. -/
def Obligations.DeserDelimitsPayload : Prop :=
  ∀ (s : State) (tree : Tree), s.status.err = false → s.status.phase = .hdr → tree.size ≤ 511 →
    s.inBits s.icur tree.ser.length = tree.ser → s.icur + tree.ser.length ≤ 8 * s.ilen →
    ∃ t, exec .deser s = .next t ∧ t.nnode = tree.size ∧
      (s.icur + tree.ser.length + s.pad.toNat ≤ 8 * s.ilen →
        t.status.err = false ∧ t.pstart = s.icur + tree.ser.length ∧ t.pend = 8 * s.ilen - s.pad.toNat) ∧
      (8 * s.ilen < s.icur + tree.ser.length + s.pad.toNat →
        t.status.err = true ∧ t.cause = .malformedStream ∧ t.einfo = s.icur + tree.ser.length)

/-- R185, R186: DEC1 follows the payload's leading bits from the root to a leaf and returns its symbol, or raises MalformedStream at the
codeword's start when the payload ends first. Nothing else changes. -/
def Obligations.Dec1DecodesOne : Prop :=
  ∀ (s : State) (tree : Tree), s.status.err = false → s.status.phase = .payload → s.tree? = some tree →
    s.icur ≤ s.pend →
    (∀ sym rest, tree.decodeOne s.payloadLeft = some (sym, rest) →
      exec .dec1 s = .next { s with rsym := sym, icur := s.pend - rest.length }) ∧
    (tree.decodeOne s.payloadLeft = none →
      exec .dec1 s = .next { s with
        status := { s.status with err := true }, cause := .malformedStream, einfo := s.icur })

/-- R188, R189 (a): DECALL of a payload that is a sequence of codewords appends their symbols to the output and ends at PEND. Nothing else
changes, and no byte of OBUF but those of the symbols. -/
def Obligations.DecallDecodesPayload : Prop :=
  ∀ (s : State) (tree : Tree) (entries : List (Byte × Bits)), s.status.err = false → s.status.phase = .payload →
    s.tree? = some tree → (tree.isLeaf = true → entries = []) → (∀ e ∈ entries, e ∈ tree.paths []) →
    s.icur ≤ s.pend → s.payloadLeft = entries.flatMap Prod.snd → s.olen + entries.length ≤ s.params.obufCap →
    ∃ t, exec .decall s = .next t ∧ t.icur = s.pend ∧ t.olen = s.olen + entries.length ∧
      t.outBytes = s.outBytes ++ entries.map Prod.fst ∧
      (∀ a, a < s.olen ∨ t.olen ≤ a → Memory.read? t.obuf a = Memory.read? s.obuf a) ∧
      t = { s with obuf := t.obuf, olen := t.olen, icur := t.icur }

/-- R191, R188: DECALL of a payload that ends inside a codeword keeps the symbols before it, leaves the cursor at that codeword's
start and raises MalformedStream there. -/
def Obligations.DecallKeepsPartialResult : Prop :=
  ∀ (s : State) (tree : Tree) (entries : List (Byte × Bits)) (tail : Bits), s.status.err = false →
    s.status.phase = .payload → s.tree? = some tree → (∀ e ∈ entries, e ∈ tree.paths []) → s.icur ≤ s.pend →
    s.payloadLeft = entries.flatMap Prod.snd ++ tail → tail ≠ [] → tree.decodeOne tail = none →
    s.olen + entries.length ≤ s.params.obufCap →
    ∃ t, exec .decall s = .next t ∧ t.status = { s.status with err := true } ∧ t.cause = .malformedStream ∧
      t.einfo = t.icur ∧ t.icur = s.icur + (entries.flatMap Prod.snd).length ∧
      t.outBytes = s.outBytes ++ entries.map Prod.fst ∧
      t = { s with
        obuf := t.obuf, olen := t.olen, icur := t.icur, status := t.status, cause := t.cause, einfo := t.einfo }

/-- R188, R78: DECALL stops when OBUF is full and a whole codeword is left: the symbols before it stay, the cursor is at that codeword's
start, and OutputOverflow is raised with OLEN. -/
def Obligations.DecallOverflowKeepsPartialResult : Prop :=
  ∀ (s : State) (tree : Tree) (entries : List (Byte × Bits)) (e : Byte × Bits) (rest : Bits), s.status.err = false →
    s.status.phase = .payload → s.tree? = some tree → tree.isLeaf = false → (∀ x ∈ entries ++ [e], x ∈ tree.paths []) →
    s.icur ≤ s.pend → s.payloadLeft = entries.flatMap Prod.snd ++ e.2 ++ rest →
    s.olen + entries.length = s.params.obufCap →
    ∃ t, exec .decall s = .next t ∧ t.status = { s.status with err := true } ∧ t.cause = .outputOverflow ∧
      t.einfo = s.params.obufCap ∧ t.olen = s.params.obufCap ∧
      t.icur = s.icur + (entries.flatMap Prod.snd).length ∧ t.outBytes = s.outBytes ++ entries.map Prod.fst ∧
      t = { s with
        obuf := t.obuf, olen := t.olen, icur := t.icur, status := t.status, cause := t.cause, einfo := t.einfo }

/-- R189 (b): DECALL with a single-leaf tree and a payload that is not empty raises DegenerateTree and yields nothing. -/
def Obligations.DecallDegenerateFaults : Prop :=
  ∀ s : State, s.status.err = false → s.status.phase = .payload → s.root < s.nnode →
    (s.nodeAt s.root).leaf = true → s.icur < s.pend →
    exec .decall s = .next { s with
      status := { s.status with err := true }, cause := .degenerateTree, einfo := s.icur }

/-- R190: REWIND has the word 0x4400 and is legal in phase PAYLOAD only, where it sets ICUR to PSTART and OLEN to 0; nothing else changes. -/
def Obligations.RewindRestartsDecoding : Prop :=
  commandWord .rewind = 0x4400#16 ∧
    ∀ s : State, s.status.err = false →
      (s.status.phase = .payload → exec .rewind s = .next { s with icur := s.pstart, olen := 0 }) ∧
      (s.status.phase ≠ .payload → exec .rewind s = .next { s with
        status := { s.status with err := true }, cause := .phaseError, einfo := 0x4400 })

/-! ## Stream records one by one (log 9) -/

/-- R108, R109, R183 (log 9): a LEAF or INTERNAL record where the engine stands before a tree record takes the next node; the leaf is
written and its subtree is complete, the internal node waits for its left subtree. Past the end of the input they raise MalformedStream,
with the node store full NodeOverflow, at the record's bit. -/
def Obligations.TreeRecordsTakeNodes : Prop :=
  ∀ (s : State) (cur : Nat) (frames : List Frame) (sym : Byte), s.status.err = false → s.reader = .tree cur frames →
    (s.nnode < 511 → cur + 9 ≤ 8 * s.ilen →
      exec (.leaf sym) s = .next (closeSubtree s.nnode (cur + 9) frames
        { s with
          nnode := s.nnode + 1,
          nodes := s.nodes.setIfInBounds s.nnode { leaf := true, sym := sym, left := 0, right := 0, count := 0 } })) ∧
    (s.nnode < 511 → cur < 8 * s.ilen →
      exec .internal s = .next { s with nnode := s.nnode + 1, reader := .tree (cur + 1) (.left s.nnode :: frames) }) ∧
    (8 * s.ilen ≤ cur → ∀ i ∈ [Instr.leaf sym, Instr.internal], exec i s = .next { s with
      reader := .idle, status := { s.status with err := true }, cause := .malformedStream, einfo := cur }) ∧
    (cur < 8 * s.ilen → 511 ≤ s.nnode → ∀ i ∈ [Instr.leaf sym, Instr.internal], exec i s = .next { s with
      reader := .idle, status := { s.status with err := true }, cause := .nodeOverflow, einfo := cur })

/-- R111, R185, R112, R90: a payload bit goes from an internal node to its left child on 0 and its right child on 1; a padding bit
changes nothing. -/
def Obligations.PayloadAndPaddingBits : Prop :=
  ∀ (s : State) (b : Bool), exec .padbit s = .next s ∧
    ∀ start cur i, s.status.err = false → s.reader = .walk start cur i → i < s.nnode → (s.nodeAt i).leaf = false →
      cur < s.pend →
      exec (.pbit b) s = .next { s with
        reader := .walk start (cur + 1) (if b then (s.nodeAt i).right else (s.nodeAt i).left) }

/-- R114, R183 (log 9): reading a tree record by record, one step each with no reset input between (log 3), leaves what `Des` leaves: the same
nodes, the same root and the same cursor. -/
def Obligations.RecordByRecordReadsTree : Prop :=
  ∀ (fuel b i cur : Nat) (s t : State), s.resetNext = false → s.status.busy = false → s.status.err = false →
    s.reader = .tree b [] → des fuel b s = .ok (i, cur) t →
    ∃ n, Host.Core.run Sys2Proof.core n s = .next { t with reader := .treeDone i cur }

/-! ## The composite commands -/

/-- R203, R205, R206: COMP and DECOMP do what their parts do as separate commands, faults included. -/
def Obligations.CompositesAreTheirParts : Prop :=
  ∀ s : State, s.status.err = false → s.status.phase = .count →
    exec .comp s = compParts s ∧ exec .decomp s = decompParts s

/-- R203, R170, R132, R135, R145 (b): COMP of a text whose counts fit and whose container fits adds the text to the frequency table, builds the
tree of that table (the one the two-queue construction gives), and ends well, in CLOSED, with the container of the text under that tree.
Nothing else changes. -/
def Obligations.CompCompressesText : Prop :=
  ∀ s : State, s.FreqOk → s.status.err = false → s.status.phase = .count → s.status.empty = false →
    1 ≤ s.nsym + s.ilen → s.total + s.ilen ≤ s.params.countMax →
    1 + (2559 + 255 * s.ilen + 7) / 8 ≤ s.params.obufCap →
    ∃ t tree, exec .comp s = .next t ∧ t.EndedWell ∧ t.status.phase = .closed ∧
      (∀ sym, t.freqOf sym = s.freqOf sym + s.inputText.count sym) ∧
      t.orderList = s.orderList ++ firstSeen s.orderList s.inputText ∧ t.total = s.total + s.ilen ∧
      t.twoQueueTree = some tree ∧ t.tree? = some tree ∧ t.code = tree.codeTable ∧
      t.outBytes.flatMap bits8 =
        bits8 (t.pad.setWidth 8) ++ tree.ser ++ t.codewords s.inputText ++ List.replicate t.pad.toNat false ∧
      (∀ a, t.olen ≤ a → Memory.read? t.obuf a = Memory.read? s.obuf a) ∧
      t = { s with
        freq := t.freq, order := t.order, nsym := t.nsym, total := t.total, nodes := t.nodes, nnode := t.nnode,
        root := t.root, code := t.code, obuf := t.obuf, olen := t.olen, acc := 0, accn := 0, pad := t.pad,
        status := { s.status with rootv := true, codev := true, phase := .closed } }

/-- R205, R192: DECOMP of a container, whatever its padding bits, ends well with the symbols of its payload as the output. Nothing else
changes. -/
def Obligations.DecompDecodesContainer : Prop :=
  ∀ (s : State) (tree : Tree) (entries : List (Byte × Bits)) (padding : Bits), s.status.err = false →
    s.status.phase = .count → s.status.empty = false → 1 ≤ s.ilen → (s.memRead 0).toNat = padding.length →
    padding.length < 8 → tree.size ≤ 511 → (tree.isLeaf = true → entries = []) →
    (∀ e ∈ entries, e ∈ tree.paths []) →
    s.inBits 8 (8 * s.ilen - 8) = tree.ser ++ entries.flatMap Prod.snd ++ padding →
    entries.length ≤ s.params.obufCap →
    ∃ t, exec .decomp s = .next t ∧ t.EndedWell ∧ t.status.phase = .payload ∧ t.outBytes = entries.map Prod.fst ∧
      t.tree? = some tree.uncounted ∧ (∀ a, t.olen ≤ a → Memory.read? t.obuf a = Memory.read? s.obuf a) ∧
      t = { s with
        pad := t.pad, icur := t.icur, pstart := t.pstart, pend := t.pend, nodes := t.nodes, nnode := t.nnode,
        root := t.root, code := t.code, obuf := t.obuf, olen := t.olen,
        status := { s.status with rootv := true, codev := true, phase := .payload } }

/-- R192 (a): what COMP compresses, DECOMP decompresses, for every text of at least two distinct symbols that the capacities hold. -/
def Obligations.RoundTrip : Prop :=
  ∀ (p : Params) (text : List Byte) (a b : Byte), a ∈ text → b ∈ text → a ≠ b → text.length ≤ p.countMax →
    text.length ≤ p.obufCap → 1 + (2559 + 255 * text.length + 7) / 8 ≤ p.obufCap →
    ∃ t u, exec .comp (State.loaded p text) = .next t ∧ t.status.err = false ∧
      exec .decomp (State.loaded p t.outBytes) = .next u ∧ u.status.err = false ∧ u.outBytes = text

/-- R165, R192 (c), R273: every text of one symbol has the same three-byte container, which decompresses to the empty text. -/
def Obligations.SingleSymbolTextIsLost : Prop :=
  ∀ (p : Params) (sym : Byte) (n : Nat), 1 ≤ n → n ≤ p.countMax → 3 ≤ p.obufCap →
    ∃ t u, exec .comp (State.loaded p (List.replicate n sym)) = .next t ∧ t.status.err = false ∧
      t.outBytes = [0x07#8, sym >>> 1, sym <<< 7] ∧
      exec .decomp (State.loaded p t.outBytes) = .next u ∧ u.status.err = false ∧ u.outBytes = []

/-! ## Invariants of every step -/

/-- R49, R7: the reset state meets the invariant, whatever valid parameters the block has. -/
def Obligations.ResetMeetsInvariant : Prop :=
  ∀ p : Params, p.Valid → (State.initial p).Inv

/-- R20 to R45: the invariant is kept by every step, whatever the host does. -/
def Obligations.StepKeepsInvariant : Prop :=
  ∀ s t : State, s.Inv → step s = .next t → t.Inv

/-- R7, R47: no step changes the parameters or breaks the canonical form of a memory. -/
def Obligations.StepKeepsCanonicalMemory : Prop :=
  ∀ s t : State, Memory.wf s.ibuf → Memory.wf s.obuf → step s = .next t →
    t.params = s.params ∧ Memory.wf t.ibuf ∧ Memory.wf t.obuf

/-- R207, R223: from a state that meets the invariant every command ends in a next state, by itself or by the reset input that abandons it
(R260, log 3): no command is ever stuck or refused. -/
def Obligations.CommandsAlwaysComplete : Prop :=
  ∀ s : State, s.Inv → s.status.busy = true → ∃ t, step s = .next t ∧ t.status.busy = false
end

