-- ==== Sys2Proof/Laws/State.lean ====
section
/-!
SUPPORT. One lemma per field per named update of the state, each true by definition, so that no proof unfolds a record update.
-/

namespace Sys2Proof.Machine

/-! ## `State.setFreq` -/

@[simp] theorem State.setFreq_params (s : State) (sym : Byte) (n : Nat) : (s.setFreq sym n).params = s.params := rfl
@[simp] theorem State.setFreq_cmd (s : State) (sym : Byte) (n : Nat) : (s.setFreq sym n).cmd = s.cmd := rfl
@[simp] theorem State.setFreq_status (s : State) (sym : Byte) (n : Nat) : (s.setFreq sym n).status = s.status := rfl
@[simp] theorem State.setFreq_cause (s : State) (sym : Byte) (n : Nat) : (s.setFreq sym n).cause = s.cause := rfl
@[simp] theorem State.setFreq_einfo (s : State) (sym : Byte) (n : Nat) : (s.setFreq sym n).einfo = s.einfo := rfl
@[simp] theorem State.setFreq_ilen (s : State) (sym : Byte) (n : Nat) : (s.setFreq sym n).ilen = s.ilen := rfl
@[simp] theorem State.setFreq_olen (s : State) (sym : Byte) (n : Nat) : (s.setFreq sym n).olen = s.olen := rfl
@[simp] theorem State.setFreq_pad (s : State) (sym : Byte) (n : Nat) : (s.setFreq sym n).pad = s.pad := rfl
@[simp] theorem State.setFreq_icur (s : State) (sym : Byte) (n : Nat) : (s.setFreq sym n).icur = s.icur := rfl
@[simp] theorem State.setFreq_pstart (s : State) (sym : Byte) (n : Nat) : (s.setFreq sym n).pstart = s.pstart := rfl
@[simp] theorem State.setFreq_pend (s : State) (sym : Byte) (n : Nat) : (s.setFreq sym n).pend = s.pend := rfl
@[simp] theorem State.setFreq_nsym (s : State) (sym : Byte) (n : Nat) : (s.setFreq sym n).nsym = s.nsym := rfl
@[simp] theorem State.setFreq_total (s : State) (sym : Byte) (n : Nat) : (s.setFreq sym n).total = s.total := rfl
@[simp] theorem State.setFreq_nnode (s : State) (sym : Byte) (n : Nat) : (s.setFreq sym n).nnode = s.nnode := rfl
@[simp] theorem State.setFreq_root (s : State) (sym : Byte) (n : Nat) : (s.setFreq sym n).root = s.root := rfl
@[simp] theorem State.setFreq_acc (s : State) (sym : Byte) (n : Nat) : (s.setFreq sym n).acc = s.acc := rfl
@[simp] theorem State.setFreq_accn (s : State) (sym : Byte) (n : Nat) : (s.setFreq sym n).accn = s.accn := rfl
@[simp] theorem State.setFreq_rsym (s : State) (sym : Byte) (n : Nat) : (s.setFreq sym n).rsym = s.rsym := rfl
@[simp] theorem State.setFreq_rcount (s : State) (sym : Byte) (n : Nat) : (s.setFreq sym n).rcount = s.rcount := rfl
@[simp] theorem State.setFreq_rlen (s : State) (sym : Byte) (n : Nat) : (s.setFreq sym n).rlen = s.rlen := rfl
@[simp] theorem State.setFreq_rcode (s : State) (sym : Byte) (n : Nat) : (s.setFreq sym n).rcode = s.rcode := rfl
@[simp] theorem State.setFreq_freq (s : State) (sym : Byte) (n : Nat) : (s.setFreq sym n).freq = s.freq.set sym.toNat n := rfl
@[simp] theorem State.setFreq_order (s : State) (sym : Byte) (n : Nat) : (s.setFreq sym n).order = s.order := rfl
@[simp] theorem State.setFreq_nodes (s : State) (sym : Byte) (n : Nat) : (s.setFreq sym n).nodes = s.nodes := rfl
@[simp] theorem State.setFreq_code (s : State) (sym : Byte) (n : Nat) : (s.setFreq sym n).code = s.code := rfl
@[simp] theorem State.setFreq_ibuf (s : State) (sym : Byte) (n : Nat) : (s.setFreq sym n).ibuf = s.ibuf := rfl
@[simp] theorem State.setFreq_obuf (s : State) (sym : Byte) (n : Nat) : (s.setFreq sym n).obuf = s.obuf := rfl
@[simp] theorem State.setFreq_reader (s : State) (sym : Byte) (n : Nat) : (s.setFreq sym n).reader = s.reader := rfl
@[simp] theorem State.setFreq_hostMoves (s : State) (sym : Byte) (n : Nat) : (s.setFreq sym n).hostMoves = s.hostMoves := rfl
@[simp] theorem State.setFreq_hostData (s : State) (sym : Byte) (n : Nat) : (s.setFreq sym n).hostData = s.hostData := rfl
@[simp] theorem State.setFreq_epoch (s : State) (sym : Byte) (n : Nat) : (s.setFreq sym n).epoch = s.epoch := rfl

/-! ## `State.setOrder` -/

@[simp] theorem State.setOrder_params (s : State) (rank : Nat) (sym : Byte) : (s.setOrder rank sym).params = s.params := rfl
@[simp] theorem State.setOrder_cmd (s : State) (rank : Nat) (sym : Byte) : (s.setOrder rank sym).cmd = s.cmd := rfl
@[simp] theorem State.setOrder_status (s : State) (rank : Nat) (sym : Byte) : (s.setOrder rank sym).status = s.status := rfl
@[simp] theorem State.setOrder_cause (s : State) (rank : Nat) (sym : Byte) : (s.setOrder rank sym).cause = s.cause := rfl
@[simp] theorem State.setOrder_einfo (s : State) (rank : Nat) (sym : Byte) : (s.setOrder rank sym).einfo = s.einfo := rfl
@[simp] theorem State.setOrder_ilen (s : State) (rank : Nat) (sym : Byte) : (s.setOrder rank sym).ilen = s.ilen := rfl
@[simp] theorem State.setOrder_olen (s : State) (rank : Nat) (sym : Byte) : (s.setOrder rank sym).olen = s.olen := rfl
@[simp] theorem State.setOrder_pad (s : State) (rank : Nat) (sym : Byte) : (s.setOrder rank sym).pad = s.pad := rfl
@[simp] theorem State.setOrder_icur (s : State) (rank : Nat) (sym : Byte) : (s.setOrder rank sym).icur = s.icur := rfl
@[simp] theorem State.setOrder_pstart (s : State) (rank : Nat) (sym : Byte) : (s.setOrder rank sym).pstart = s.pstart := rfl
@[simp] theorem State.setOrder_pend (s : State) (rank : Nat) (sym : Byte) : (s.setOrder rank sym).pend = s.pend := rfl
@[simp] theorem State.setOrder_nsym (s : State) (rank : Nat) (sym : Byte) : (s.setOrder rank sym).nsym = s.nsym := rfl
@[simp] theorem State.setOrder_total (s : State) (rank : Nat) (sym : Byte) : (s.setOrder rank sym).total = s.total := rfl
@[simp] theorem State.setOrder_nnode (s : State) (rank : Nat) (sym : Byte) : (s.setOrder rank sym).nnode = s.nnode := rfl
@[simp] theorem State.setOrder_root (s : State) (rank : Nat) (sym : Byte) : (s.setOrder rank sym).root = s.root := rfl
@[simp] theorem State.setOrder_acc (s : State) (rank : Nat) (sym : Byte) : (s.setOrder rank sym).acc = s.acc := rfl
@[simp] theorem State.setOrder_accn (s : State) (rank : Nat) (sym : Byte) : (s.setOrder rank sym).accn = s.accn := rfl
@[simp] theorem State.setOrder_rsym (s : State) (rank : Nat) (sym : Byte) : (s.setOrder rank sym).rsym = s.rsym := rfl
@[simp] theorem State.setOrder_rcount (s : State) (rank : Nat) (sym : Byte) : (s.setOrder rank sym).rcount = s.rcount := rfl
@[simp] theorem State.setOrder_rlen (s : State) (rank : Nat) (sym : Byte) : (s.setOrder rank sym).rlen = s.rlen := rfl
@[simp] theorem State.setOrder_rcode (s : State) (rank : Nat) (sym : Byte) : (s.setOrder rank sym).rcode = s.rcode := rfl
@[simp] theorem State.setOrder_freq (s : State) (rank : Nat) (sym : Byte) : (s.setOrder rank sym).freq = s.freq := rfl
@[simp] theorem State.setOrder_order (s : State) (rank : Nat) (sym : Byte) : (s.setOrder rank sym).order = s.order.setIfInBounds rank sym := rfl
@[simp] theorem State.setOrder_nodes (s : State) (rank : Nat) (sym : Byte) : (s.setOrder rank sym).nodes = s.nodes := rfl
@[simp] theorem State.setOrder_code (s : State) (rank : Nat) (sym : Byte) : (s.setOrder rank sym).code = s.code := rfl
@[simp] theorem State.setOrder_ibuf (s : State) (rank : Nat) (sym : Byte) : (s.setOrder rank sym).ibuf = s.ibuf := rfl
@[simp] theorem State.setOrder_obuf (s : State) (rank : Nat) (sym : Byte) : (s.setOrder rank sym).obuf = s.obuf := rfl
@[simp] theorem State.setOrder_reader (s : State) (rank : Nat) (sym : Byte) : (s.setOrder rank sym).reader = s.reader := rfl
@[simp] theorem State.setOrder_hostMoves (s : State) (rank : Nat) (sym : Byte) : (s.setOrder rank sym).hostMoves = s.hostMoves := rfl
@[simp] theorem State.setOrder_hostData (s : State) (rank : Nat) (sym : Byte) : (s.setOrder rank sym).hostData = s.hostData := rfl
@[simp] theorem State.setOrder_epoch (s : State) (rank : Nat) (sym : Byte) : (s.setOrder rank sym).epoch = s.epoch := rfl

/-! ## `State.setNode` -/

@[simp] theorem State.setNode_params (s : State) (i : Nat) (n : Node) : (s.setNode i n).params = s.params := rfl
@[simp] theorem State.setNode_cmd (s : State) (i : Nat) (n : Node) : (s.setNode i n).cmd = s.cmd := rfl
@[simp] theorem State.setNode_status (s : State) (i : Nat) (n : Node) : (s.setNode i n).status = s.status := rfl
@[simp] theorem State.setNode_cause (s : State) (i : Nat) (n : Node) : (s.setNode i n).cause = s.cause := rfl
@[simp] theorem State.setNode_einfo (s : State) (i : Nat) (n : Node) : (s.setNode i n).einfo = s.einfo := rfl
@[simp] theorem State.setNode_ilen (s : State) (i : Nat) (n : Node) : (s.setNode i n).ilen = s.ilen := rfl
@[simp] theorem State.setNode_olen (s : State) (i : Nat) (n : Node) : (s.setNode i n).olen = s.olen := rfl
@[simp] theorem State.setNode_pad (s : State) (i : Nat) (n : Node) : (s.setNode i n).pad = s.pad := rfl
@[simp] theorem State.setNode_icur (s : State) (i : Nat) (n : Node) : (s.setNode i n).icur = s.icur := rfl
@[simp] theorem State.setNode_pstart (s : State) (i : Nat) (n : Node) : (s.setNode i n).pstart = s.pstart := rfl
@[simp] theorem State.setNode_pend (s : State) (i : Nat) (n : Node) : (s.setNode i n).pend = s.pend := rfl
@[simp] theorem State.setNode_nsym (s : State) (i : Nat) (n : Node) : (s.setNode i n).nsym = s.nsym := rfl
@[simp] theorem State.setNode_total (s : State) (i : Nat) (n : Node) : (s.setNode i n).total = s.total := rfl
@[simp] theorem State.setNode_nnode (s : State) (i : Nat) (n : Node) : (s.setNode i n).nnode = s.nnode := rfl
@[simp] theorem State.setNode_root (s : State) (i : Nat) (n : Node) : (s.setNode i n).root = s.root := rfl
@[simp] theorem State.setNode_acc (s : State) (i : Nat) (n : Node) : (s.setNode i n).acc = s.acc := rfl
@[simp] theorem State.setNode_accn (s : State) (i : Nat) (n : Node) : (s.setNode i n).accn = s.accn := rfl
@[simp] theorem State.setNode_rsym (s : State) (i : Nat) (n : Node) : (s.setNode i n).rsym = s.rsym := rfl
@[simp] theorem State.setNode_rcount (s : State) (i : Nat) (n : Node) : (s.setNode i n).rcount = s.rcount := rfl
@[simp] theorem State.setNode_rlen (s : State) (i : Nat) (n : Node) : (s.setNode i n).rlen = s.rlen := rfl
@[simp] theorem State.setNode_rcode (s : State) (i : Nat) (n : Node) : (s.setNode i n).rcode = s.rcode := rfl
@[simp] theorem State.setNode_freq (s : State) (i : Nat) (n : Node) : (s.setNode i n).freq = s.freq := rfl
@[simp] theorem State.setNode_order (s : State) (i : Nat) (n : Node) : (s.setNode i n).order = s.order := rfl
@[simp] theorem State.setNode_nodes (s : State) (i : Nat) (n : Node) : (s.setNode i n).nodes = s.nodes.setIfInBounds i n := rfl
@[simp] theorem State.setNode_code (s : State) (i : Nat) (n : Node) : (s.setNode i n).code = s.code := rfl
@[simp] theorem State.setNode_ibuf (s : State) (i : Nat) (n : Node) : (s.setNode i n).ibuf = s.ibuf := rfl
@[simp] theorem State.setNode_obuf (s : State) (i : Nat) (n : Node) : (s.setNode i n).obuf = s.obuf := rfl
@[simp] theorem State.setNode_reader (s : State) (i : Nat) (n : Node) : (s.setNode i n).reader = s.reader := rfl
@[simp] theorem State.setNode_hostMoves (s : State) (i : Nat) (n : Node) : (s.setNode i n).hostMoves = s.hostMoves := rfl
@[simp] theorem State.setNode_hostData (s : State) (i : Nat) (n : Node) : (s.setNode i n).hostData = s.hostData := rfl
@[simp] theorem State.setNode_epoch (s : State) (i : Nat) (n : Node) : (s.setNode i n).epoch = s.epoch := rfl

/-! ## `State.raise` -/

@[simp] theorem State.raise_params (s : State) (k : Cause) (n : Nat) : (s.raise k n).params = s.params := rfl
@[simp] theorem State.raise_cmd (s : State) (k : Cause) (n : Nat) : (s.raise k n).cmd = s.cmd := rfl
@[simp] theorem State.raise_status (s : State) (k : Cause) (n : Nat) : (s.raise k n).status = { s.status with err := true } := rfl
@[simp] theorem State.raise_cause (s : State) (k : Cause) (n : Nat) : (s.raise k n).cause = k := rfl
@[simp] theorem State.raise_einfo (s : State) (k : Cause) (n : Nat) : (s.raise k n).einfo = n := rfl
@[simp] theorem State.raise_ilen (s : State) (k : Cause) (n : Nat) : (s.raise k n).ilen = s.ilen := rfl
@[simp] theorem State.raise_olen (s : State) (k : Cause) (n : Nat) : (s.raise k n).olen = s.olen := rfl
@[simp] theorem State.raise_pad (s : State) (k : Cause) (n : Nat) : (s.raise k n).pad = s.pad := rfl
@[simp] theorem State.raise_icur (s : State) (k : Cause) (n : Nat) : (s.raise k n).icur = s.icur := rfl
@[simp] theorem State.raise_pstart (s : State) (k : Cause) (n : Nat) : (s.raise k n).pstart = s.pstart := rfl
@[simp] theorem State.raise_pend (s : State) (k : Cause) (n : Nat) : (s.raise k n).pend = s.pend := rfl
@[simp] theorem State.raise_nsym (s : State) (k : Cause) (n : Nat) : (s.raise k n).nsym = s.nsym := rfl
@[simp] theorem State.raise_total (s : State) (k : Cause) (n : Nat) : (s.raise k n).total = s.total := rfl
@[simp] theorem State.raise_nnode (s : State) (k : Cause) (n : Nat) : (s.raise k n).nnode = s.nnode := rfl
@[simp] theorem State.raise_root (s : State) (k : Cause) (n : Nat) : (s.raise k n).root = s.root := rfl
@[simp] theorem State.raise_acc (s : State) (k : Cause) (n : Nat) : (s.raise k n).acc = s.acc := rfl
@[simp] theorem State.raise_accn (s : State) (k : Cause) (n : Nat) : (s.raise k n).accn = s.accn := rfl
@[simp] theorem State.raise_rsym (s : State) (k : Cause) (n : Nat) : (s.raise k n).rsym = s.rsym := rfl
@[simp] theorem State.raise_rcount (s : State) (k : Cause) (n : Nat) : (s.raise k n).rcount = s.rcount := rfl
@[simp] theorem State.raise_rlen (s : State) (k : Cause) (n : Nat) : (s.raise k n).rlen = s.rlen := rfl
@[simp] theorem State.raise_rcode (s : State) (k : Cause) (n : Nat) : (s.raise k n).rcode = s.rcode := rfl
@[simp] theorem State.raise_freq (s : State) (k : Cause) (n : Nat) : (s.raise k n).freq = s.freq := rfl
@[simp] theorem State.raise_order (s : State) (k : Cause) (n : Nat) : (s.raise k n).order = s.order := rfl
@[simp] theorem State.raise_nodes (s : State) (k : Cause) (n : Nat) : (s.raise k n).nodes = s.nodes := rfl
@[simp] theorem State.raise_code (s : State) (k : Cause) (n : Nat) : (s.raise k n).code = s.code := rfl
@[simp] theorem State.raise_ibuf (s : State) (k : Cause) (n : Nat) : (s.raise k n).ibuf = s.ibuf := rfl
@[simp] theorem State.raise_obuf (s : State) (k : Cause) (n : Nat) : (s.raise k n).obuf = s.obuf := rfl
@[simp] theorem State.raise_reader (s : State) (k : Cause) (n : Nat) : (s.raise k n).reader = s.reader := rfl
@[simp] theorem State.raise_hostMoves (s : State) (k : Cause) (n : Nat) : (s.raise k n).hostMoves = s.hostMoves := rfl
@[simp] theorem State.raise_hostData (s : State) (k : Cause) (n : Nat) : (s.raise k n).hostData = s.hostData := rfl
@[simp] theorem State.raise_epoch (s : State) (k : Cause) (n : Nat) : (s.raise k n).epoch = s.epoch := rfl

/-! ## `State.setPhase` -/

@[simp] theorem State.setPhase_params (s : State) (p : Phase) : (s.setPhase p).params = s.params := rfl
@[simp] theorem State.setPhase_cmd (s : State) (p : Phase) : (s.setPhase p).cmd = s.cmd := rfl
@[simp] theorem State.setPhase_status (s : State) (p : Phase) : (s.setPhase p).status = { s.status with phase := p } := rfl
@[simp] theorem State.setPhase_cause (s : State) (p : Phase) : (s.setPhase p).cause = s.cause := rfl
@[simp] theorem State.setPhase_einfo (s : State) (p : Phase) : (s.setPhase p).einfo = s.einfo := rfl
@[simp] theorem State.setPhase_ilen (s : State) (p : Phase) : (s.setPhase p).ilen = s.ilen := rfl
@[simp] theorem State.setPhase_olen (s : State) (p : Phase) : (s.setPhase p).olen = s.olen := rfl
@[simp] theorem State.setPhase_pad (s : State) (p : Phase) : (s.setPhase p).pad = s.pad := rfl
@[simp] theorem State.setPhase_icur (s : State) (p : Phase) : (s.setPhase p).icur = s.icur := rfl
@[simp] theorem State.setPhase_pstart (s : State) (p : Phase) : (s.setPhase p).pstart = s.pstart := rfl
@[simp] theorem State.setPhase_pend (s : State) (p : Phase) : (s.setPhase p).pend = s.pend := rfl
@[simp] theorem State.setPhase_nsym (s : State) (p : Phase) : (s.setPhase p).nsym = s.nsym := rfl
@[simp] theorem State.setPhase_total (s : State) (p : Phase) : (s.setPhase p).total = s.total := rfl
@[simp] theorem State.setPhase_nnode (s : State) (p : Phase) : (s.setPhase p).nnode = s.nnode := rfl
@[simp] theorem State.setPhase_root (s : State) (p : Phase) : (s.setPhase p).root = s.root := rfl
@[simp] theorem State.setPhase_acc (s : State) (p : Phase) : (s.setPhase p).acc = s.acc := rfl
@[simp] theorem State.setPhase_accn (s : State) (p : Phase) : (s.setPhase p).accn = s.accn := rfl
@[simp] theorem State.setPhase_rsym (s : State) (p : Phase) : (s.setPhase p).rsym = s.rsym := rfl
@[simp] theorem State.setPhase_rcount (s : State) (p : Phase) : (s.setPhase p).rcount = s.rcount := rfl
@[simp] theorem State.setPhase_rlen (s : State) (p : Phase) : (s.setPhase p).rlen = s.rlen := rfl
@[simp] theorem State.setPhase_rcode (s : State) (p : Phase) : (s.setPhase p).rcode = s.rcode := rfl
@[simp] theorem State.setPhase_freq (s : State) (p : Phase) : (s.setPhase p).freq = s.freq := rfl
@[simp] theorem State.setPhase_order (s : State) (p : Phase) : (s.setPhase p).order = s.order := rfl
@[simp] theorem State.setPhase_nodes (s : State) (p : Phase) : (s.setPhase p).nodes = s.nodes := rfl
@[simp] theorem State.setPhase_code (s : State) (p : Phase) : (s.setPhase p).code = s.code := rfl
@[simp] theorem State.setPhase_ibuf (s : State) (p : Phase) : (s.setPhase p).ibuf = s.ibuf := rfl
@[simp] theorem State.setPhase_obuf (s : State) (p : Phase) : (s.setPhase p).obuf = s.obuf := rfl
@[simp] theorem State.setPhase_reader (s : State) (p : Phase) : (s.setPhase p).reader = s.reader := rfl
@[simp] theorem State.setPhase_hostMoves (s : State) (p : Phase) : (s.setPhase p).hostMoves = s.hostMoves := rfl
@[simp] theorem State.setPhase_hostData (s : State) (p : Phase) : (s.setPhase p).hostData = s.hostData := rfl
@[simp] theorem State.setPhase_epoch (s : State) (p : Phase) : (s.setPhase p).epoch = s.epoch := rfl

/-! ## `State.emptyClosed` -/

@[simp] theorem State.emptyClosed_params (s : State) : (s.emptyClosed).params = s.params := rfl
@[simp] theorem State.emptyClosed_cmd (s : State) : (s.emptyClosed).cmd = s.cmd := rfl
@[simp] theorem State.emptyClosed_status (s : State) : (s.emptyClosed).status = { s.status with empty := true, codev := true, phase := .closed } := rfl
@[simp] theorem State.emptyClosed_cause (s : State) : (s.emptyClosed).cause = s.cause := rfl
@[simp] theorem State.emptyClosed_einfo (s : State) : (s.emptyClosed).einfo = s.einfo := rfl
@[simp] theorem State.emptyClosed_ilen (s : State) : (s.emptyClosed).ilen = s.ilen := rfl
@[simp] theorem State.emptyClosed_olen (s : State) : (s.emptyClosed).olen = 0 := rfl
@[simp] theorem State.emptyClosed_pad (s : State) : (s.emptyClosed).pad = s.pad := rfl
@[simp] theorem State.emptyClosed_icur (s : State) : (s.emptyClosed).icur = s.icur := rfl
@[simp] theorem State.emptyClosed_pstart (s : State) : (s.emptyClosed).pstart = s.pstart := rfl
@[simp] theorem State.emptyClosed_pend (s : State) : (s.emptyClosed).pend = s.pend := rfl
@[simp] theorem State.emptyClosed_nsym (s : State) : (s.emptyClosed).nsym = s.nsym := rfl
@[simp] theorem State.emptyClosed_total (s : State) : (s.emptyClosed).total = s.total := rfl
@[simp] theorem State.emptyClosed_nnode (s : State) : (s.emptyClosed).nnode = s.nnode := rfl
@[simp] theorem State.emptyClosed_root (s : State) : (s.emptyClosed).root = s.root := rfl
@[simp] theorem State.emptyClosed_acc (s : State) : (s.emptyClosed).acc = s.acc := rfl
@[simp] theorem State.emptyClosed_accn (s : State) : (s.emptyClosed).accn = s.accn := rfl
@[simp] theorem State.emptyClosed_rsym (s : State) : (s.emptyClosed).rsym = s.rsym := rfl
@[simp] theorem State.emptyClosed_rcount (s : State) : (s.emptyClosed).rcount = s.rcount := rfl
@[simp] theorem State.emptyClosed_rlen (s : State) : (s.emptyClosed).rlen = s.rlen := rfl
@[simp] theorem State.emptyClosed_rcode (s : State) : (s.emptyClosed).rcode = s.rcode := rfl
@[simp] theorem State.emptyClosed_freq (s : State) : (s.emptyClosed).freq = s.freq := rfl
@[simp] theorem State.emptyClosed_order (s : State) : (s.emptyClosed).order = s.order := rfl
@[simp] theorem State.emptyClosed_nodes (s : State) : (s.emptyClosed).nodes = s.nodes := rfl
@[simp] theorem State.emptyClosed_code (s : State) : (s.emptyClosed).code = s.code := rfl
@[simp] theorem State.emptyClosed_ibuf (s : State) : (s.emptyClosed).ibuf = s.ibuf := rfl
@[simp] theorem State.emptyClosed_obuf (s : State) : (s.emptyClosed).obuf = s.obuf := rfl
@[simp] theorem State.emptyClosed_reader (s : State) : (s.emptyClosed).reader = s.reader := rfl
@[simp] theorem State.emptyClosed_hostMoves (s : State) : (s.emptyClosed).hostMoves = s.hostMoves := rfl
@[simp] theorem State.emptyClosed_hostData (s : State) : (s.emptyClosed).hostData = s.hostData := rfl
@[simp] theorem State.emptyClosed_epoch (s : State) : (s.emptyClosed).epoch = s.epoch := rfl

/-! ## `State.writeObuf` -/

@[simp] theorem State.writeObuf_params (s : State) (a : Nat) (v : Byte) : (s.writeObuf a v).params = s.params := rfl
@[simp] theorem State.writeObuf_cmd (s : State) (a : Nat) (v : Byte) : (s.writeObuf a v).cmd = s.cmd := rfl
@[simp] theorem State.writeObuf_status (s : State) (a : Nat) (v : Byte) : (s.writeObuf a v).status = s.status := rfl
@[simp] theorem State.writeObuf_cause (s : State) (a : Nat) (v : Byte) : (s.writeObuf a v).cause = s.cause := rfl
@[simp] theorem State.writeObuf_einfo (s : State) (a : Nat) (v : Byte) : (s.writeObuf a v).einfo = s.einfo := rfl
@[simp] theorem State.writeObuf_ilen (s : State) (a : Nat) (v : Byte) : (s.writeObuf a v).ilen = s.ilen := rfl
@[simp] theorem State.writeObuf_olen (s : State) (a : Nat) (v : Byte) : (s.writeObuf a v).olen = s.olen := rfl
@[simp] theorem State.writeObuf_pad (s : State) (a : Nat) (v : Byte) : (s.writeObuf a v).pad = s.pad := rfl
@[simp] theorem State.writeObuf_icur (s : State) (a : Nat) (v : Byte) : (s.writeObuf a v).icur = s.icur := rfl
@[simp] theorem State.writeObuf_pstart (s : State) (a : Nat) (v : Byte) : (s.writeObuf a v).pstart = s.pstart := rfl
@[simp] theorem State.writeObuf_pend (s : State) (a : Nat) (v : Byte) : (s.writeObuf a v).pend = s.pend := rfl
@[simp] theorem State.writeObuf_nsym (s : State) (a : Nat) (v : Byte) : (s.writeObuf a v).nsym = s.nsym := rfl
@[simp] theorem State.writeObuf_total (s : State) (a : Nat) (v : Byte) : (s.writeObuf a v).total = s.total := rfl
@[simp] theorem State.writeObuf_nnode (s : State) (a : Nat) (v : Byte) : (s.writeObuf a v).nnode = s.nnode := rfl
@[simp] theorem State.writeObuf_root (s : State) (a : Nat) (v : Byte) : (s.writeObuf a v).root = s.root := rfl
@[simp] theorem State.writeObuf_acc (s : State) (a : Nat) (v : Byte) : (s.writeObuf a v).acc = s.acc := rfl
@[simp] theorem State.writeObuf_accn (s : State) (a : Nat) (v : Byte) : (s.writeObuf a v).accn = s.accn := rfl
@[simp] theorem State.writeObuf_rsym (s : State) (a : Nat) (v : Byte) : (s.writeObuf a v).rsym = s.rsym := rfl
@[simp] theorem State.writeObuf_rcount (s : State) (a : Nat) (v : Byte) : (s.writeObuf a v).rcount = s.rcount := rfl
@[simp] theorem State.writeObuf_rlen (s : State) (a : Nat) (v : Byte) : (s.writeObuf a v).rlen = s.rlen := rfl
@[simp] theorem State.writeObuf_rcode (s : State) (a : Nat) (v : Byte) : (s.writeObuf a v).rcode = s.rcode := rfl
@[simp] theorem State.writeObuf_freq (s : State) (a : Nat) (v : Byte) : (s.writeObuf a v).freq = s.freq := rfl
@[simp] theorem State.writeObuf_order (s : State) (a : Nat) (v : Byte) : (s.writeObuf a v).order = s.order := rfl
@[simp] theorem State.writeObuf_nodes (s : State) (a : Nat) (v : Byte) : (s.writeObuf a v).nodes = s.nodes := rfl
@[simp] theorem State.writeObuf_code (s : State) (a : Nat) (v : Byte) : (s.writeObuf a v).code = s.code := rfl
@[simp] theorem State.writeObuf_ibuf (s : State) (a : Nat) (v : Byte) : (s.writeObuf a v).ibuf = s.ibuf := rfl
@[simp] theorem State.writeObuf_obuf (s : State) (a : Nat) (v : Byte) : (s.writeObuf a v).obuf = Memory.write s.obuf a v := rfl
@[simp] theorem State.writeObuf_reader (s : State) (a : Nat) (v : Byte) : (s.writeObuf a v).reader = s.reader := rfl
@[simp] theorem State.writeObuf_hostMoves (s : State) (a : Nat) (v : Byte) : (s.writeObuf a v).hostMoves = s.hostMoves := rfl
@[simp] theorem State.writeObuf_hostData (s : State) (a : Nat) (v : Byte) : (s.writeObuf a v).hostData = s.hostData := rfl
@[simp] theorem State.writeObuf_epoch (s : State) (a : Nat) (v : Byte) : (s.writeObuf a v).epoch = s.epoch := rfl

/-! ## `State.treeReady` -/

@[simp] theorem State.treeReady_params (s : State) (p : Phase) : (s.treeReady p).params = s.params := rfl
@[simp] theorem State.treeReady_cmd (s : State) (p : Phase) : (s.treeReady p).cmd = s.cmd := rfl
@[simp] theorem State.treeReady_status (s : State) (p : Phase) : (s.treeReady p).status = { s.status with rootv := true, codev := true, phase := p } := rfl
@[simp] theorem State.treeReady_cause (s : State) (p : Phase) : (s.treeReady p).cause = s.cause := rfl
@[simp] theorem State.treeReady_einfo (s : State) (p : Phase) : (s.treeReady p).einfo = s.einfo := rfl
@[simp] theorem State.treeReady_ilen (s : State) (p : Phase) : (s.treeReady p).ilen = s.ilen := rfl
@[simp] theorem State.treeReady_olen (s : State) (p : Phase) : (s.treeReady p).olen = s.olen := rfl
@[simp] theorem State.treeReady_pad (s : State) (p : Phase) : (s.treeReady p).pad = s.pad := rfl
@[simp] theorem State.treeReady_icur (s : State) (p : Phase) : (s.treeReady p).icur = s.icur := rfl
@[simp] theorem State.treeReady_pstart (s : State) (p : Phase) : (s.treeReady p).pstart = s.pstart := rfl
@[simp] theorem State.treeReady_pend (s : State) (p : Phase) : (s.treeReady p).pend = s.pend := rfl
@[simp] theorem State.treeReady_nsym (s : State) (p : Phase) : (s.treeReady p).nsym = s.nsym := rfl
@[simp] theorem State.treeReady_total (s : State) (p : Phase) : (s.treeReady p).total = s.total := rfl
@[simp] theorem State.treeReady_nnode (s : State) (p : Phase) : (s.treeReady p).nnode = s.nnode := rfl
@[simp] theorem State.treeReady_root (s : State) (p : Phase) : (s.treeReady p).root = s.root := rfl
@[simp] theorem State.treeReady_acc (s : State) (p : Phase) : (s.treeReady p).acc = s.acc := rfl
@[simp] theorem State.treeReady_accn (s : State) (p : Phase) : (s.treeReady p).accn = s.accn := rfl
@[simp] theorem State.treeReady_rsym (s : State) (p : Phase) : (s.treeReady p).rsym = s.rsym := rfl
@[simp] theorem State.treeReady_rcount (s : State) (p : Phase) : (s.treeReady p).rcount = s.rcount := rfl
@[simp] theorem State.treeReady_rlen (s : State) (p : Phase) : (s.treeReady p).rlen = s.rlen := rfl
@[simp] theorem State.treeReady_rcode (s : State) (p : Phase) : (s.treeReady p).rcode = s.rcode := rfl
@[simp] theorem State.treeReady_freq (s : State) (p : Phase) : (s.treeReady p).freq = s.freq := rfl
@[simp] theorem State.treeReady_order (s : State) (p : Phase) : (s.treeReady p).order = s.order := rfl
@[simp] theorem State.treeReady_nodes (s : State) (p : Phase) : (s.treeReady p).nodes = s.nodes := rfl
@[simp] theorem State.treeReady_code (s : State) (p : Phase) : (s.treeReady p).code = s.code := rfl
@[simp] theorem State.treeReady_ibuf (s : State) (p : Phase) : (s.treeReady p).ibuf = s.ibuf := rfl
@[simp] theorem State.treeReady_obuf (s : State) (p : Phase) : (s.treeReady p).obuf = s.obuf := rfl
@[simp] theorem State.treeReady_reader (s : State) (p : Phase) : (s.treeReady p).reader = s.reader := rfl
@[simp] theorem State.treeReady_hostMoves (s : State) (p : Phase) : (s.treeReady p).hostMoves = s.hostMoves := rfl
@[simp] theorem State.treeReady_hostData (s : State) (p : Phase) : (s.treeReady p).hostData = s.hostData := rfl
@[simp] theorem State.treeReady_epoch (s : State) (p : Phase) : (s.treeReady p).epoch = s.epoch := rfl

/-! ## `State.merged` -/

@[simp] theorem State.merged_params (s : State) (a b : Nat) : (s.merged a b).params = s.params := rfl
@[simp] theorem State.merged_cmd (s : State) (a b : Nat) : (s.merged a b).cmd = s.cmd := rfl
@[simp] theorem State.merged_status (s : State) (a b : Nat) : (s.merged a b).status = s.status := rfl
@[simp] theorem State.merged_cause (s : State) (a b : Nat) : (s.merged a b).cause = s.cause := rfl
@[simp] theorem State.merged_einfo (s : State) (a b : Nat) : (s.merged a b).einfo = s.einfo := rfl
@[simp] theorem State.merged_ilen (s : State) (a b : Nat) : (s.merged a b).ilen = s.ilen := rfl
@[simp] theorem State.merged_olen (s : State) (a b : Nat) : (s.merged a b).olen = s.olen := rfl
@[simp] theorem State.merged_pad (s : State) (a b : Nat) : (s.merged a b).pad = s.pad := rfl
@[simp] theorem State.merged_icur (s : State) (a b : Nat) : (s.merged a b).icur = s.icur := rfl
@[simp] theorem State.merged_pstart (s : State) (a b : Nat) : (s.merged a b).pstart = s.pstart := rfl
@[simp] theorem State.merged_pend (s : State) (a b : Nat) : (s.merged a b).pend = s.pend := rfl
@[simp] theorem State.merged_nsym (s : State) (a b : Nat) : (s.merged a b).nsym = s.nsym := rfl
@[simp] theorem State.merged_total (s : State) (a b : Nat) : (s.merged a b).total = s.total := rfl
@[simp] theorem State.merged_nnode (s : State) (a b : Nat) : (s.merged a b).nnode = s.nnode + 1 := rfl
@[simp] theorem State.merged_root (s : State) (a b : Nat) : (s.merged a b).root = s.root := rfl
@[simp] theorem State.merged_acc (s : State) (a b : Nat) : (s.merged a b).acc = s.acc := rfl
@[simp] theorem State.merged_accn (s : State) (a b : Nat) : (s.merged a b).accn = s.accn := rfl
@[simp] theorem State.merged_rsym (s : State) (a b : Nat) : (s.merged a b).rsym = s.rsym := rfl
@[simp] theorem State.merged_rcount (s : State) (a b : Nat) : (s.merged a b).rcount = s.rcount := rfl
@[simp] theorem State.merged_rlen (s : State) (a b : Nat) : (s.merged a b).rlen = s.rlen := rfl
@[simp] theorem State.merged_rcode (s : State) (a b : Nat) : (s.merged a b).rcode = s.rcode := rfl
@[simp] theorem State.merged_freq (s : State) (a b : Nat) : (s.merged a b).freq = s.freq := rfl
@[simp] theorem State.merged_order (s : State) (a b : Nat) : (s.merged a b).order = s.order := rfl
@[simp] theorem State.merged_nodes (s : State) (a b : Nat) : (s.merged a b).nodes = s.nodes.setIfInBounds s.nnode (s.mergeNode a b) := rfl
@[simp] theorem State.merged_code (s : State) (a b : Nat) : (s.merged a b).code = s.code := rfl
@[simp] theorem State.merged_ibuf (s : State) (a b : Nat) : (s.merged a b).ibuf = s.ibuf := rfl
@[simp] theorem State.merged_obuf (s : State) (a b : Nat) : (s.merged a b).obuf = s.obuf := rfl
@[simp] theorem State.merged_reader (s : State) (a b : Nat) : (s.merged a b).reader = s.reader := rfl
@[simp] theorem State.merged_hostMoves (s : State) (a b : Nat) : (s.merged a b).hostMoves = s.hostMoves := rfl
@[simp] theorem State.merged_hostData (s : State) (a b : Nat) : (s.merged a b).hostData = s.hostData := rfl
@[simp] theorem State.merged_epoch (s : State) (a b : Nat) : (s.merged a b).epoch = s.epoch := rfl

/-! ## `State.streamOpened` -/

@[simp] theorem State.streamOpened_params (s : State) : (s.streamOpened).params = s.params := rfl
@[simp] theorem State.streamOpened_cmd (s : State) : (s.streamOpened).cmd = s.cmd := rfl
@[simp] theorem State.streamOpened_status (s : State) : (s.streamOpened).status = s.status := rfl
@[simp] theorem State.streamOpened_cause (s : State) : (s.streamOpened).cause = s.cause := rfl
@[simp] theorem State.streamOpened_einfo (s : State) : (s.streamOpened).einfo = s.einfo := rfl
@[simp] theorem State.streamOpened_ilen (s : State) : (s.streamOpened).ilen = s.ilen := rfl
@[simp] theorem State.streamOpened_olen (s : State) : (s.streamOpened).olen = 1 := rfl
@[simp] theorem State.streamOpened_pad (s : State) : (s.streamOpened).pad = s.pad := rfl
@[simp] theorem State.streamOpened_icur (s : State) : (s.streamOpened).icur = s.icur := rfl
@[simp] theorem State.streamOpened_pstart (s : State) : (s.streamOpened).pstart = s.pstart := rfl
@[simp] theorem State.streamOpened_pend (s : State) : (s.streamOpened).pend = s.pend := rfl
@[simp] theorem State.streamOpened_nsym (s : State) : (s.streamOpened).nsym = s.nsym := rfl
@[simp] theorem State.streamOpened_total (s : State) : (s.streamOpened).total = s.total := rfl
@[simp] theorem State.streamOpened_nnode (s : State) : (s.streamOpened).nnode = s.nnode := rfl
@[simp] theorem State.streamOpened_root (s : State) : (s.streamOpened).root = s.root := rfl
@[simp] theorem State.streamOpened_acc (s : State) : (s.streamOpened).acc = 0 := rfl
@[simp] theorem State.streamOpened_accn (s : State) : (s.streamOpened).accn = 0 := rfl
@[simp] theorem State.streamOpened_rsym (s : State) : (s.streamOpened).rsym = s.rsym := rfl
@[simp] theorem State.streamOpened_rcount (s : State) : (s.streamOpened).rcount = s.rcount := rfl
@[simp] theorem State.streamOpened_rlen (s : State) : (s.streamOpened).rlen = s.rlen := rfl
@[simp] theorem State.streamOpened_rcode (s : State) : (s.streamOpened).rcode = s.rcode := rfl
@[simp] theorem State.streamOpened_freq (s : State) : (s.streamOpened).freq = s.freq := rfl
@[simp] theorem State.streamOpened_order (s : State) : (s.streamOpened).order = s.order := rfl
@[simp] theorem State.streamOpened_nodes (s : State) : (s.streamOpened).nodes = s.nodes := rfl
@[simp] theorem State.streamOpened_code (s : State) : (s.streamOpened).code = s.code := rfl
@[simp] theorem State.streamOpened_ibuf (s : State) : (s.streamOpened).ibuf = s.ibuf := rfl
@[simp] theorem State.streamOpened_obuf (s : State) : (s.streamOpened).obuf = Memory.write s.obuf 0 0x00 := rfl
@[simp] theorem State.streamOpened_reader (s : State) : (s.streamOpened).reader = s.reader := rfl
@[simp] theorem State.streamOpened_hostMoves (s : State) : (s.streamOpened).hostMoves = s.hostMoves := rfl
@[simp] theorem State.streamOpened_hostData (s : State) : (s.streamOpened).hostData = s.hostData := rfl
@[simp] theorem State.streamOpened_epoch (s : State) : (s.streamOpened).epoch = s.epoch := rfl

/-! ## `State.leaveRecord` -/

@[simp] theorem State.leaveRecord_params (s : State) : (s.leaveRecord).params = s.params := rfl
@[simp] theorem State.leaveRecord_cmd (s : State) : (s.leaveRecord).cmd = s.cmd := rfl
@[simp] theorem State.leaveRecord_status (s : State) : (s.leaveRecord).status = s.status := rfl
@[simp] theorem State.leaveRecord_cause (s : State) : (s.leaveRecord).cause = s.cause := rfl
@[simp] theorem State.leaveRecord_einfo (s : State) : (s.leaveRecord).einfo = s.einfo := rfl
@[simp] theorem State.leaveRecord_ilen (s : State) : (s.leaveRecord).ilen = s.ilen := rfl
@[simp] theorem State.leaveRecord_olen (s : State) : (s.leaveRecord).olen = s.olen := rfl
@[simp] theorem State.leaveRecord_pad (s : State) : (s.leaveRecord).pad = s.pad := rfl
@[simp] theorem State.leaveRecord_icur (s : State) : (s.leaveRecord).icur = s.icur := rfl
@[simp] theorem State.leaveRecord_pstart (s : State) : (s.leaveRecord).pstart = s.pstart := rfl
@[simp] theorem State.leaveRecord_pend (s : State) : (s.leaveRecord).pend = s.pend := rfl
@[simp] theorem State.leaveRecord_nsym (s : State) : (s.leaveRecord).nsym = s.nsym := rfl
@[simp] theorem State.leaveRecord_total (s : State) : (s.leaveRecord).total = s.total := rfl
@[simp] theorem State.leaveRecord_nnode (s : State) : (s.leaveRecord).nnode = s.nnode := rfl
@[simp] theorem State.leaveRecord_root (s : State) : (s.leaveRecord).root = s.root := rfl
@[simp] theorem State.leaveRecord_acc (s : State) : (s.leaveRecord).acc = s.acc := rfl
@[simp] theorem State.leaveRecord_accn (s : State) : (s.leaveRecord).accn = s.accn := rfl
@[simp] theorem State.leaveRecord_rsym (s : State) : (s.leaveRecord).rsym = s.rsym := rfl
@[simp] theorem State.leaveRecord_rcount (s : State) : (s.leaveRecord).rcount = s.rcount := rfl
@[simp] theorem State.leaveRecord_rlen (s : State) : (s.leaveRecord).rlen = s.rlen := rfl
@[simp] theorem State.leaveRecord_rcode (s : State) : (s.leaveRecord).rcode = s.rcode := rfl
@[simp] theorem State.leaveRecord_freq (s : State) : (s.leaveRecord).freq = s.freq := rfl
@[simp] theorem State.leaveRecord_order (s : State) : (s.leaveRecord).order = s.order := rfl
@[simp] theorem State.leaveRecord_nodes (s : State) : (s.leaveRecord).nodes = s.nodes := rfl
@[simp] theorem State.leaveRecord_code (s : State) : (s.leaveRecord).code = s.code := rfl
@[simp] theorem State.leaveRecord_ibuf (s : State) : (s.leaveRecord).ibuf = s.ibuf := rfl
@[simp] theorem State.leaveRecord_obuf (s : State) : (s.leaveRecord).obuf = s.obuf := rfl
@[simp] theorem State.leaveRecord_reader (s : State) : (s.leaveRecord).reader = .idle := rfl
@[simp] theorem State.leaveRecord_hostMoves (s : State) : (s.leaveRecord).hostMoves = s.hostMoves := rfl
@[simp] theorem State.leaveRecord_hostData (s : State) : (s.leaveRecord).hostData = s.hostData := rfl
@[simp] theorem State.leaveRecord_epoch (s : State) : (s.leaveRecord).epoch = s.epoch := rfl

/-! ## `State.endCommand` -/

@[simp] theorem State.endCommand_params (s : State) : (s.endCommand).params = s.params := rfl
@[simp] theorem State.endCommand_cmd (s : State) : (s.endCommand).cmd = 0 := rfl
@[simp] theorem State.endCommand_status (s : State) : (s.endCommand).status = { s.status with busy := false } := rfl
@[simp] theorem State.endCommand_cause (s : State) : (s.endCommand).cause = s.cause := rfl
@[simp] theorem State.endCommand_einfo (s : State) : (s.endCommand).einfo = s.einfo := rfl
@[simp] theorem State.endCommand_ilen (s : State) : (s.endCommand).ilen = s.ilen := rfl
@[simp] theorem State.endCommand_olen (s : State) : (s.endCommand).olen = s.olen := rfl
@[simp] theorem State.endCommand_pad (s : State) : (s.endCommand).pad = s.pad := rfl
@[simp] theorem State.endCommand_icur (s : State) : (s.endCommand).icur = s.icur := rfl
@[simp] theorem State.endCommand_pstart (s : State) : (s.endCommand).pstart = s.pstart := rfl
@[simp] theorem State.endCommand_pend (s : State) : (s.endCommand).pend = s.pend := rfl
@[simp] theorem State.endCommand_nsym (s : State) : (s.endCommand).nsym = s.nsym := rfl
@[simp] theorem State.endCommand_total (s : State) : (s.endCommand).total = s.total := rfl
@[simp] theorem State.endCommand_nnode (s : State) : (s.endCommand).nnode = s.nnode := rfl
@[simp] theorem State.endCommand_root (s : State) : (s.endCommand).root = s.root := rfl
@[simp] theorem State.endCommand_acc (s : State) : (s.endCommand).acc = s.acc := rfl
@[simp] theorem State.endCommand_accn (s : State) : (s.endCommand).accn = s.accn := rfl
@[simp] theorem State.endCommand_rsym (s : State) : (s.endCommand).rsym = s.rsym := rfl
@[simp] theorem State.endCommand_rcount (s : State) : (s.endCommand).rcount = s.rcount := rfl
@[simp] theorem State.endCommand_rlen (s : State) : (s.endCommand).rlen = s.rlen := rfl
@[simp] theorem State.endCommand_rcode (s : State) : (s.endCommand).rcode = s.rcode := rfl
@[simp] theorem State.endCommand_freq (s : State) : (s.endCommand).freq = s.freq := rfl
@[simp] theorem State.endCommand_order (s : State) : (s.endCommand).order = s.order := rfl
@[simp] theorem State.endCommand_nodes (s : State) : (s.endCommand).nodes = s.nodes := rfl
@[simp] theorem State.endCommand_code (s : State) : (s.endCommand).code = s.code := rfl
@[simp] theorem State.endCommand_ibuf (s : State) : (s.endCommand).ibuf = s.ibuf := rfl
@[simp] theorem State.endCommand_obuf (s : State) : (s.endCommand).obuf = s.obuf := rfl
@[simp] theorem State.endCommand_reader (s : State) : (s.endCommand).reader = s.reader := rfl
@[simp] theorem State.endCommand_hostMoves (s : State) : (s.endCommand).hostMoves = s.hostMoves := rfl
@[simp] theorem State.endCommand_hostData (s : State) : (s.endCommand).hostData = s.hostData := rfl
@[simp] theorem State.endCommand_epoch (s : State) : (s.endCommand).epoch = s.epoch := rfl

/-! ## `State.withCommand` -/

@[simp] theorem State.withCommand_params (s : State) (w : CmdWord) : (s.withCommand w).params = s.params := rfl
@[simp] theorem State.withCommand_cmd (s : State) (w : CmdWord) : (s.withCommand w).cmd = w := rfl
@[simp] theorem State.withCommand_status (s : State) (w : CmdWord) : (s.withCommand w).status = { s.status with busy := true } := rfl
@[simp] theorem State.withCommand_cause (s : State) (w : CmdWord) : (s.withCommand w).cause = s.cause := rfl
@[simp] theorem State.withCommand_einfo (s : State) (w : CmdWord) : (s.withCommand w).einfo = s.einfo := rfl
@[simp] theorem State.withCommand_ilen (s : State) (w : CmdWord) : (s.withCommand w).ilen = s.ilen := rfl
@[simp] theorem State.withCommand_olen (s : State) (w : CmdWord) : (s.withCommand w).olen = s.olen := rfl
@[simp] theorem State.withCommand_pad (s : State) (w : CmdWord) : (s.withCommand w).pad = s.pad := rfl
@[simp] theorem State.withCommand_icur (s : State) (w : CmdWord) : (s.withCommand w).icur = s.icur := rfl
@[simp] theorem State.withCommand_pstart (s : State) (w : CmdWord) : (s.withCommand w).pstart = s.pstart := rfl
@[simp] theorem State.withCommand_pend (s : State) (w : CmdWord) : (s.withCommand w).pend = s.pend := rfl
@[simp] theorem State.withCommand_nsym (s : State) (w : CmdWord) : (s.withCommand w).nsym = s.nsym := rfl
@[simp] theorem State.withCommand_total (s : State) (w : CmdWord) : (s.withCommand w).total = s.total := rfl
@[simp] theorem State.withCommand_nnode (s : State) (w : CmdWord) : (s.withCommand w).nnode = s.nnode := rfl
@[simp] theorem State.withCommand_root (s : State) (w : CmdWord) : (s.withCommand w).root = s.root := rfl
@[simp] theorem State.withCommand_acc (s : State) (w : CmdWord) : (s.withCommand w).acc = s.acc := rfl
@[simp] theorem State.withCommand_accn (s : State) (w : CmdWord) : (s.withCommand w).accn = s.accn := rfl
@[simp] theorem State.withCommand_rsym (s : State) (w : CmdWord) : (s.withCommand w).rsym = s.rsym := rfl
@[simp] theorem State.withCommand_rcount (s : State) (w : CmdWord) : (s.withCommand w).rcount = s.rcount := rfl
@[simp] theorem State.withCommand_rlen (s : State) (w : CmdWord) : (s.withCommand w).rlen = s.rlen := rfl
@[simp] theorem State.withCommand_rcode (s : State) (w : CmdWord) : (s.withCommand w).rcode = s.rcode := rfl
@[simp] theorem State.withCommand_freq (s : State) (w : CmdWord) : (s.withCommand w).freq = s.freq := rfl
@[simp] theorem State.withCommand_order (s : State) (w : CmdWord) : (s.withCommand w).order = s.order := rfl
@[simp] theorem State.withCommand_nodes (s : State) (w : CmdWord) : (s.withCommand w).nodes = s.nodes := rfl
@[simp] theorem State.withCommand_code (s : State) (w : CmdWord) : (s.withCommand w).code = s.code := rfl
@[simp] theorem State.withCommand_ibuf (s : State) (w : CmdWord) : (s.withCommand w).ibuf = s.ibuf := rfl
@[simp] theorem State.withCommand_obuf (s : State) (w : CmdWord) : (s.withCommand w).obuf = s.obuf := rfl
@[simp] theorem State.withCommand_reader (s : State) (w : CmdWord) : (s.withCommand w).reader = s.reader := rfl
@[simp] theorem State.withCommand_hostMoves (s : State) (w : CmdWord) : (s.withCommand w).hostMoves = s.hostMoves := rfl
@[simp] theorem State.withCommand_hostData (s : State) (w : CmdWord) : (s.withCommand w).hostData = s.hostData := rfl
@[simp] theorem State.withCommand_epoch (s : State) (w : CmdWord) : (s.withCommand w).epoch = s.epoch := rfl

/-! ## `State.returned` -/

@[simp] theorem State.returned_params (s : State) (v : HostValue) : (s.returned v).params = s.params := rfl
@[simp] theorem State.returned_cmd (s : State) (v : HostValue) : (s.returned v).cmd = s.cmd := rfl
@[simp] theorem State.returned_status (s : State) (v : HostValue) : (s.returned v).status = s.status := rfl
@[simp] theorem State.returned_cause (s : State) (v : HostValue) : (s.returned v).cause = s.cause := rfl
@[simp] theorem State.returned_einfo (s : State) (v : HostValue) : (s.returned v).einfo = s.einfo := rfl
@[simp] theorem State.returned_ilen (s : State) (v : HostValue) : (s.returned v).ilen = s.ilen := rfl
@[simp] theorem State.returned_olen (s : State) (v : HostValue) : (s.returned v).olen = s.olen := rfl
@[simp] theorem State.returned_pad (s : State) (v : HostValue) : (s.returned v).pad = s.pad := rfl
@[simp] theorem State.returned_icur (s : State) (v : HostValue) : (s.returned v).icur = s.icur := rfl
@[simp] theorem State.returned_pstart (s : State) (v : HostValue) : (s.returned v).pstart = s.pstart := rfl
@[simp] theorem State.returned_pend (s : State) (v : HostValue) : (s.returned v).pend = s.pend := rfl
@[simp] theorem State.returned_nsym (s : State) (v : HostValue) : (s.returned v).nsym = s.nsym := rfl
@[simp] theorem State.returned_total (s : State) (v : HostValue) : (s.returned v).total = s.total := rfl
@[simp] theorem State.returned_nnode (s : State) (v : HostValue) : (s.returned v).nnode = s.nnode := rfl
@[simp] theorem State.returned_root (s : State) (v : HostValue) : (s.returned v).root = s.root := rfl
@[simp] theorem State.returned_acc (s : State) (v : HostValue) : (s.returned v).acc = s.acc := rfl
@[simp] theorem State.returned_accn (s : State) (v : HostValue) : (s.returned v).accn = s.accn := rfl
@[simp] theorem State.returned_rsym (s : State) (v : HostValue) : (s.returned v).rsym = s.rsym := rfl
@[simp] theorem State.returned_rcount (s : State) (v : HostValue) : (s.returned v).rcount = s.rcount := rfl
@[simp] theorem State.returned_rlen (s : State) (v : HostValue) : (s.returned v).rlen = s.rlen := rfl
@[simp] theorem State.returned_rcode (s : State) (v : HostValue) : (s.returned v).rcode = s.rcode := rfl
@[simp] theorem State.returned_freq (s : State) (v : HostValue) : (s.returned v).freq = s.freq := rfl
@[simp] theorem State.returned_order (s : State) (v : HostValue) : (s.returned v).order = s.order := rfl
@[simp] theorem State.returned_nodes (s : State) (v : HostValue) : (s.returned v).nodes = s.nodes := rfl
@[simp] theorem State.returned_code (s : State) (v : HostValue) : (s.returned v).code = s.code := rfl
@[simp] theorem State.returned_ibuf (s : State) (v : HostValue) : (s.returned v).ibuf = s.ibuf := rfl
@[simp] theorem State.returned_obuf (s : State) (v : HostValue) : (s.returned v).obuf = s.obuf := rfl
@[simp] theorem State.returned_reader (s : State) (v : HostValue) : (s.returned v).reader = s.reader := rfl
@[simp] theorem State.returned_hostMoves (s : State) (v : HostValue) : (s.returned v).hostMoves = s.hostMoves := rfl
@[simp] theorem State.returned_hostData (s : State) (v : HostValue) : (s.returned v).hostData = v := rfl
@[simp] theorem State.returned_epoch (s : State) (v : HostValue) : (s.returned v).epoch = s.epoch := rfl

end Sys2Proof.Machine
end

