-- ==== Sys2Proof/Laws/Ops.lean ====
section
/-!
SUPPORT. What each shared operation can do, said once: the results of pseudocode in sequence, the common checks of a command, the
bit and byte writers, the frequency table's step, the node taker, and the frames of the loops (which fields a piece of pseudocode
can have changed where it ends, whether at its last line or at a `raise`).
-/

namespace Sys2Proof.Machine

/-! ## Results in sequence -/

/-- The state in which a piece of pseudocode ends, at its last line or at a `raise`. -/
inductive Res.EndsIn {α : Type} : Res α → State → Prop where
  | ok (a : α) (t : State) : Res.EndsIn (.ok a t) t
  | raised (k : Cause) (n : Nat) (t : State) : Res.EndsIn (.raised k n t) t

@[simp] theorem Res.bind_ok {α β : Type} (a : α) (s : State) (f : α → State → Res β) : (Res.ok a s).bind f = f a s := rfl

@[simp] theorem Res.bind_raised {α β : Type} (k : Cause) (n : Nat) (s : State) (f : α → State → Res β) :
    (Res.raised k n s).bind f = .raised k n s := rfl

@[simp] theorem Res.bind_stuck {α β : Type} (g : Fault) (f : α → State → Res β) :
    (Res.stuck g : Res α).bind f = .stuck g := rfl

theorem Res.bind_assoc {α β γ : Type} (r : Res α) (f : α → State → Res β) (g : β → State → Res γ) :
    (r.bind f).bind g = r.bind fun a s => (f a s).bind g := by
  cases r <;> rfl

@[simp] theorem Res.endsIn_ok {α : Type} {a : α} {s t : State} : (Res.ok a s).EndsIn t ↔ t = s :=
  ⟨fun h => (by cases h; rfl), fun h => h ▸ .ok a s⟩

@[simp] theorem Res.endsIn_raised {α : Type} {k : Cause} {n : Nat} {s t : State} :
    (Res.raised k n s : Res α).EndsIn t ↔ t = s :=
  ⟨fun h => (by cases h; rfl), fun h => h ▸ .raised k n s⟩

@[simp] theorem Res.endsIn_stuck {α : Type} {g : Fault} {t : State} : (Res.stuck g : Res α).EndsIn t ↔ False :=
  ⟨(fun h => nomatch h), False.elim⟩

/-- Where a sequence ends: at the first part's `raise`, or where the second part, run from the first part's last line, ends. -/
theorem Res.endsIn_bind {α β : Type} {r : Res α} {f : α → State → Res β} {t : State} (h : (r.bind f).EndsIn t) :
    r.EndsIn t ∨ ∃ a u, r = .ok a u ∧ (f a u).EndsIn t := by
  cases r with
  | ok a u => exact .inr ⟨a, u, rfl, h⟩
  | raised k n u => exact .inl (by simpa using h)
  | stuck g => simp at h

/-- A sequence that reaches its last line. -/
theorem Res.bind_eq_ok {α β : Type} {r : Res α} {f : α → State → Res β} {b : β} {t : State} :
    r.bind f = .ok b t ↔ ∃ a u, r = .ok a u ∧ f a u = .ok b t := by
  cases r <;> simp

/-- A sequence that raises. -/
theorem Res.bind_eq_raised {α β : Type} {r : Res α} {f : α → State → Res β} {k : Cause} {n : Nat} {t : State} :
    r.bind f = .raised k n t ↔ r = .raised k n t ∨ ∃ a u, r = .ok a u ∧ f a u = .raised k n t := by
  cases r <;> simp

/-- A command's outcome is a next state exactly when its pseudocode is not stuck. -/
theorem Res.outcome_eq_next {α : Type} {r : Res α} {t : State} (h : r.outcome = .next t) :
    (∃ a, r = .ok a t) ∨ ∃ k n u, r = .raised k n u ∧ t = u.raise k n := by
  cases r with
  | ok a u => exact .inl ⟨a, by simp only [Res.outcome, Host.Outcome.next.injEq] at h; rw [h]⟩
  | raised k n u => exact .inr ⟨k, n, u, rfl, by simpa [Res.outcome] using h.symm⟩
  | stuck g => simp [Res.outcome] at h

/-! ## The common checks (R225) -/

/-- What a legal command word can do: nothing while a fault is recorded, PhaseError out of phase, else its pseudocode. -/
theorem runCommand_cases {i : Instr} {body : State → Res Unit} {s t : State} (h : runCommand i body s = .next t) :
    (s.status.err = true ∧ t = s) ∨
    (s.status.err = false ∧ s.status.permits i = false ∧ t = s.raise .phaseError (commandWord i).toNat) ∨
    (s.status.err = false ∧ s.status.permits i = true ∧ body s = .ok () t) ∨
    (s.status.err = false ∧ s.status.permits i = true ∧ ∃ k n u, body s = .raised k n u ∧ t = u.raise k n) := by
  rw [runCommand] at h
  split at h
  · next he => exact .inl ⟨he, by simpa using h.symm⟩
  · next he =>
    have he : s.status.err = false := by simpa using he
    split at h
    · next hp =>
      rcases Res.outcome_eq_next h with ⟨_, hb⟩ | ⟨k, n, u, hb, ht⟩
      · exact .inr (.inr (.inl ⟨he, hp, hb⟩))
      · exact .inr (.inr (.inr ⟨he, hp, k, n, u, hb, ht⟩))
    · next hp => exact .inr (.inl ⟨he, by simpa using hp, by simpa using h.symm⟩)

/-- A legal command in phase, no fault recorded, runs its pseudocode. -/
theorem runCommand_runs {i : Instr} {body : State → Res Unit} {s : State} (he : s.status.err = false)
    (hp : s.status.permits i = true) : runCommand i body s = (body s).outcome := by
  simp [runCommand, he, hp]

/-! ## The bit and byte writers (R77, R78) -/

/-- What `PutBit` can do: place the bit, or flush the eighth, or find OBUF full. -/
theorem putBit_cases (b : Bool) (s : State) :
    (s.accn ≠ 7 ∧ putBit b s = .ok () { s with acc := s.accWith b, accn := s.accn + 1 }) ∨
    (s.accn = 7 ∧ s.olen < s.params.obufCap ∧
      putBit b s = .ok () { s with
        obuf := Memory.write s.obuf s.olen (s.accWith b), olen := s.olen + 1, acc := 0, accn := 0 }) ∨
    (s.accn = 7 ∧ s.params.obufCap ≤ s.olen ∧ putBit b s = .raised .outputOverflow s.olen { s with acc := s.accWith b }) := by
  by_cases ha : s.accn = 7
  · by_cases ho : s.params.obufCap ≤ s.olen
    · exact .inr (.inr ⟨ha, ho, by simp [putBit, ha, ho]⟩)
    · exact .inr (.inl ⟨ha, by omega, by simp [putBit, ha, ho, State.writeObuf]⟩)
  · exact .inl ⟨ha, if_neg ha⟩

theorem putBits_append (bs cs : Bits) (s : State) :
    putBits (bs ++ cs) s = (putBits bs s).bind fun _ s => putBits cs s := by
  induction bs generalizing s with
  | nil => rfl
  | cons b bs ih => simp only [List.cons_append, putBits, Res.bind_assoc, ih]

/-- `PutBits` writes OBUF, OLEN, ACC and ACCN and nothing else. -/
theorem putBits_frame (bs : Bits) {s t : State} (h : (putBits bs s).EndsIn t) :
    t = { s with obuf := t.obuf, olen := t.olen, acc := t.acc, accn := t.accn } := by
  induction bs generalizing s with
  | nil => simp only [putBits, Res.endsIn_ok] at h; rw [h]
  | cons b bs ih =>
    rw [putBits] at h
    rcases putBit_cases b s with ⟨_, hp⟩ | ⟨_, _, hp⟩ | ⟨_, _, hp⟩ <;> rw [hp] at h
    · have ht := ih h; exact ht
    · have ht := ih h; exact ht
    · simp only [Res.bind_raised, Res.endsIn_raised] at h; rw [h]

/-- What `PutByte` can do. -/
theorem putByte_cases (v : Byte) (s : State) :
    (s.olen < s.params.obufCap ∧
      putByte v s = .ok () { s with obuf := Memory.write s.obuf s.olen v, olen := s.olen + 1 }) ∨
    (s.params.obufCap ≤ s.olen ∧ putByte v s = .raised .outputOverflow s.olen s) := by
  by_cases ho : s.params.obufCap ≤ s.olen
  · exact .inr ⟨ho, by simp [putByte, ho]⟩
  · exact .inl ⟨by omega, by simp [putByte, ho, State.writeObuf]⟩

/-! ## The frequency table (R130) -/

/-- What `AddSym` can do. -/
theorem addSym_cases (sym : Byte) (s : State) :
    (s.params.countMax ≤ s.total ∧ addSym sym s = .raised .countOverflow sym.toNat s) ∨
    (s.total < s.params.countMax ∧ s.freqOf sym = 0 ∧ 256 ≤ s.nsym ∧ addSym sym s = .stuck .fileIndexOutOfRange) ∨
    (s.total < s.params.countMax ∧ s.freqOf sym = 0 ∧ s.nsym < 256 ∧
      addSym sym s = .ok () { s with
        order := s.order.setIfInBounds s.nsym sym, freq := s.freq.set sym.toNat 1, nsym := s.nsym + 1,
        total := s.total + 1 }) ∨
    (s.total < s.params.countMax ∧ s.freqOf sym ≠ 0 ∧
      addSym sym s = .ok () { s with freq := s.freq.set sym.toNat (s.freqOf sym + 1), total := s.total + 1 }) := by
  by_cases ht : s.params.countMax ≤ s.total
  · exact .inl ⟨ht, by simp [addSym, ht]⟩
  · by_cases hf : s.freqOf sym = 0
    · by_cases hn : 256 ≤ s.nsym
      · exact .inr (.inl ⟨by omega, hf, hn, by simp [addSym, ht, hf, hn, Config.nsymMax]⟩)
      · exact .inr (.inr (.inl ⟨by omega, hf, by omega, by
          simp [addSym, ht, hf, hn, Config.nsymMax, State.setOrder, State.setFreq]⟩))
    · exact .inr (.inr (.inr ⟨by omega, hf, by simp [addSym, ht, hf, State.setFreq]⟩))

/-- `AddSym` of a text writes FREQ, ORDER, NSYM and TOTAL and nothing else. -/
theorem addText_frame (text : List Byte) {s t : State} (h : (addText text s).EndsIn t) :
    t = { s with freq := t.freq, order := t.order, nsym := t.nsym, total := t.total } := by
  induction text generalizing s with
  | nil => simp only [addText, Res.endsIn_ok] at h; rw [h]
  | cons sym text ih =>
    rw [addText] at h
    rcases addSym_cases sym s with ⟨_, hp⟩ | ⟨_, _, _, hp⟩ | ⟨_, _, _, hp⟩ | ⟨_, _, hp⟩ <;> rw [hp] at h
    · simp only [Res.bind_raised, Res.endsIn_raised] at h; rw [h]
    · simp at h
    · have ht := ih h; exact ht
    · have ht := ih h; exact ht

/-! ## The encoder (R164) -/

/-- What one step of ENC or ENCT can do. -/
theorem encodeSymbol_cases (sym : Byte) (s : State) :
    ((s.codeOf sym).valid = true ∧ encodeSymbol sym s = putBits (s.codeOf sym).bits s) ∨
    ((s.codeOf sym).valid = false ∧ encodeSymbol sym s = .raised .unknownSymbol sym.toNat s) := by
  by_cases hv : (s.codeOf sym).valid = true
  · exact .inl ⟨hv, by simp [encodeSymbol, hv]⟩
  · exact .inr ⟨by simpa using hv, by simp [encodeSymbol, hv]⟩

/-- The codewords of a text write OBUF, OLEN, ACC and ACCN and nothing else. -/
theorem encodeText_frame (text : List Byte) {s t : State} (h : (encodeText text s).EndsIn t) :
    t = { s with obuf := t.obuf, olen := t.olen, acc := t.acc, accn := t.accn } := by
  induction text generalizing s with
  | nil => simp only [encodeText, Res.endsIn_ok] at h; rw [h]
  | cons sym text ih =>
    rw [encodeText] at h
    rcases encodeSymbol_cases sym s with ⟨_, hp⟩ | ⟨_, hp⟩ <;> rw [hp] at h
    · rcases Res.endsIn_bind h with h | ⟨_, u, hu, h⟩
      · exact putBits_frame _ h
      · have hf := putBits_frame _ (hu ▸ Res.EndsIn.ok _ u)
        have ht := ih h
        rw [hf] at ht
        exact ht
    · simp only [Res.bind_raised, Res.endsIn_raised] at h; rw [h]

/-! ## The tree builder and the code table (R143, R146) -/

/-- The merge loop writes NODE and NNODE and nothing else, and never raises. -/
theorem mergeAll_frame (fuel : Nat) (l : List Nat) {s : State} :
    (∃ root t, mergeAll fuel l s = .ok root t ∧ t = { s with nodes := t.nodes, nnode := t.nnode }) ∨
      mergeAll fuel l s = .stuck .nodeStoreNotATree := by
  induction fuel generalizing l s with
  | zero =>
    match l with
    | [] => exact .inr rfl
    | [root] => exact .inl ⟨root, s, rfl, rfl⟩
    | _ :: _ :: _ => exact .inr rfl
  | succ fuel ih =>
    match l with
    | [] => exact .inr rfl
    | [root] => exact .inl ⟨root, s, rfl, rfl⟩
    | a :: b :: rest =>
      rw [mergeAll]
      rcases ih (stableSort (s.merged a b).nodeCount (rest ++ [s.nnode])) (s := s.merged a b) with ⟨root, t, hr, ht⟩ | hr
      · exact .inl ⟨root, t, hr, ht⟩
      · exact .inr hr

/-- `DeriveCodes` writes CODE and nothing else, where there is a tree. -/
theorem deriveCodes_cases (s : State) :
    (∃ t, s.tree? = some t ∧ deriveCodes s = .ok () { s with code := t.codeTable }) ∨
      (s.tree? = none ∧ deriveCodes s = .stuck .nodeStoreNotATree) := by
  cases h : s.tree? with
  | none => exact .inr ⟨rfl, by simp [deriveCodes, h]⟩
  | some t => exact .inl ⟨t, rfl, by simp [deriveCodes, h]⟩

/-! ## The deserializer and the decoder (R183, R185) -/

/-- What the taking of a node can do. -/
theorem takeNode_cases (b : Nat) (s : State) :
    (8 * s.ilen ≤ b ∧ takeNode b s = .raised .malformedStream b s) ∨
    (b < 8 * s.ilen ∧ 511 ≤ s.nnode ∧ takeNode b s = .raised .nodeOverflow b s) ∨
    (b < 8 * s.ilen ∧ s.nnode < 511 ∧ takeNode b s = .ok s.nnode { s with nnode := s.nnode + 1 }) := by
  by_cases hb : 8 * s.ilen ≤ b
  · exact .inl ⟨hb, by simp [takeNode, hb]⟩
  · by_cases hn : 511 ≤ s.nnode
    · exact .inr (.inl ⟨by omega, hn, by simp [takeNode, hb, hn, Config.nodeCap]⟩)
    · exact .inr (.inr ⟨by omega, by omega, by simp [takeNode, hb, hn, Config.nodeCap]⟩)

/-- `Des` writes NODE and NNODE and nothing else. -/
theorem des_frame (fuel b : Nat) {s t : State} (h : (des fuel b s).EndsIn t) :
    t = { s with nodes := t.nodes, nnode := t.nnode } := by
  induction fuel generalizing b s t with
  | zero => simp [des] at h
  | succ fuel ih =>
    rw [des] at h
    rcases takeNode_cases b s with ⟨_, hp⟩ | ⟨_, _, hp⟩ | ⟨_, _, hp⟩ <;> rw [hp] at h
    · simp only [Res.bind_raised, Res.endsIn_raised] at h; rw [h]
    · simp only [Res.bind_raised, Res.endsIn_raised] at h; rw [h]
    · simp only [Res.bind_ok] at h
      split at h
      · split at h
        · simp only [Res.endsIn_raised] at h; rw [h]
        · simp only [Res.endsIn_ok] at h; rw [h]; rfl
      · rcases Res.endsIn_bind h with h | ⟨l, u, hu, h⟩
        · have ht := ih _ h; exact ht
        · have hf := ih (b + 1) (s := { s with nnode := s.nnode + 1 }) (hu ▸ Res.EndsIn.ok l u)
          rcases Res.endsIn_bind h with h | ⟨r, v, hv, h⟩
          · have hg := ih _ h
            rw [hf] at hg
            exact hg
          · have hg := ih _ (hv ▸ Res.EndsIn.ok r v)
            rw [hf] at hg
            simp only [Res.endsIn_ok] at h
            rw [h, hg]
            rfl

/-- `Walk1` writes no state. -/
theorem walkFrom_frame (c0 left i c : Nat) {s t : State} (h : (walkFrom c0 left i c s).EndsIn t) : t = s := by
  induction left generalizing i c with
  | zero =>
    rw [walkFrom] at h
    split at h
    · simp at h
    · split at h
      · simpa using h
      · simpa using h
  | succ left ih =>
    rw [walkFrom] at h
    split at h
    · simp at h
    · split at h
      · simpa using h
      · exact ih _ _ h

/-- DECALL's loop writes OBUF, OLEN and ICUR and nothing else. -/
theorem decodeAll_frame (fuel : Nat) {s t : State} (h : (decodeAll fuel s).EndsIn t) :
    t = { s with obuf := t.obuf, olen := t.olen, icur := t.icur } := by
  induction fuel generalizing s with
  | zero => simp only [decodeAll, Res.endsIn_ok] at h; rw [h]
  | succ fuel ih =>
    rw [decodeAll] at h
    split at h
    · rcases Res.endsIn_bind h with h' | ⟨r, u, hu, h'⟩
      · have := walkFrom_frame _ _ _ _ h'
        rw [this]
      · have hus := walkFrom_frame _ _ _ _ (hu ▸ Res.EndsIn.ok r u)
        subst hus
        rcases putByte_cases r.1 u with ⟨_, hp⟩ | ⟨_, hp⟩ <;> rw [hp] at h'
        · have ht := ih h'; exact ht
        · simp only [Res.bind_raised, Res.endsIn_raised] at h'; rw [h']
    · simp only [Res.endsIn_ok] at h; rw [h]

end Sys2Proof.Machine
end

