-- ==== Sys2Proof/Laws/PerInstr.lean ====
section
/-!
SUPPORT. Statements said once per constructor of `Instr`. `EncodedLength`: how many bits an instruction has (R100 for the commands,
R107 to R112 for the stream records).
-/

namespace Sys2Proof.Laws

/-- The number of bits of an instruction: 16 for a command word, 8 for HDR, 9 for LEAF, 1 for INTERNAL, PBIT and PADBIT. -/
def EncodedLength.Statement (i : Instr) : Prop :=
  (encode i).length =
    match i.place, i with
    | .command, _ => 16
    | .header, _ => 8
    | .tree, .internal => 1
    | .tree, _ => 9
    | .payload, _ => 1
    | .padding, _ => 1

theorem EncodedLength.nop : EncodedLength.Statement .nop := rfl

theorem EncodedLength.clr : EncodedLength.Statement .clr := rfl

theorem EncodedLength.fadd (sym : Byte) : EncodedLength.Statement (.fadd sym) := rfl

theorem EncodedLength.faddt : EncodedLength.Statement .faddt := rfl

theorem EncodedLength.fcnt (sym : Byte) : EncodedLength.Statement (.fcnt sym) := rfl

theorem EncodedLength.build : EncodedLength.Statement .build := rfl

theorem EncodedLength.cwlk (sym : Byte) : EncodedLength.Statement (.cwlk sym) := rfl

theorem EncodedLength.sert : EncodedLength.Statement .sert := rfl

theorem EncodedLength.enc (sym : Byte) : EncodedLength.Statement (.enc sym) := rfl

theorem EncodedLength.enct : EncodedLength.Statement .enct := rfl

theorem EncodedLength.fin : EncodedLength.Statement .fin := rfl

theorem EncodedLength.ldhdr : EncodedLength.Statement .ldhdr := rfl

theorem EncodedLength.deser : EncodedLength.Statement .deser := rfl

theorem EncodedLength.dec1 : EncodedLength.Statement .dec1 := rfl

theorem EncodedLength.decall : EncodedLength.Statement .decall := rfl

theorem EncodedLength.rewind : EncodedLength.Statement .rewind := rfl

theorem EncodedLength.comp : EncodedLength.Statement .comp := rfl

theorem EncodedLength.decomp : EncodedLength.Statement .decomp := rfl

theorem EncodedLength.hdr (v : Byte) : EncodedLength.Statement (.hdr v) := rfl

theorem EncodedLength.leaf (sym : Byte) : EncodedLength.Statement (.leaf sym) := rfl

theorem EncodedLength.internal : EncodedLength.Statement .internal := rfl

theorem EncodedLength.pbit (b : Bool) : EncodedLength.Statement (.pbit b) := rfl

theorem EncodedLength.padbit : EncodedLength.Statement .padbit := rfl

end Sys2Proof.Laws
end

