-- ==== Sys2Proof/Laws/Step.lean ====
section
/-!
SUPPORT. What a step can do, said once: the four kinds of step, the form every command but CLR has, what a move of the host can
change, and what a stream record can change.
-/

namespace Sys2Proof.Machine

/-! ## Commands -/

/-- The pseudocode of a command, by constructor. CLR has none (R201), and a stream record is no command. -/
def commandBody : Instr → State → Res Unit
  | .fadd sym => addSym sym
  | .faddt => faddtBody
  | .fcnt sym => fun s => .ok () { s with rcount := s.freqOf sym }
  | .build => buildBody
  | .cwlk sym => cwlkBody sym
  | .sert => sertBody
  | .enc sym => encodeSymbol sym
  | .enct => enctBody
  | .fin => finBody
  | .ldhdr => ldhdrBody
  | .deser => deserBody
  | .dec1 => dec1Body
  | .decall => decallBody
  | .rewind => fun s => .ok () { s with icur := s.pstart, olen := 0 }
  | .comp => compBody
  | .decomp => decompBody
  | .nop | .clr | .hdr _ | .leaf _ | .internal | .pbit _ | .padbit => fun s => .ok () s

/-- Every command but CLR is its pseudocode behind the common checks (R225). -/
theorem exec_command {i : Instr} (hi : i.place = .command) (hc : i ≠ .clr) (s : State) :
    exec i s = runCommand i (commandBody i) s := by
  cases i with
  | clr => exact absurd rfl hc
  | hdr v => cases hi
  | leaf sym => cases hi
  | internal => cases hi
  | pbit b => cases hi
  | padbit => cases hi
  | _ => rfl

/-- A decoded word is a command. -/
theorem decodeCommand_place {w : CmdWord} {i : Instr} (h : decodeCommand w = some i) : i.place = .command := by
  rw [decodeCommand, decodeOp.eq_def] at h
  split at h <;> simp only [formatN, reduceCtorEq, Option.some.injEq] at h <;> try split at h
  all_goals first | cases h; rfl | cases h

/-! ## Steps -/

/-- Applying a function to a next state. -/
theorem mapNext_eq_next {f : State → State} {o : Host.Outcome State Fault Refusal} {t : State} :
    mapNext f o = .next t ↔ ∃ u, o = .next u ∧ t = f u := by
  cases o <;> simp [mapNext, eq_comm]

/-- What `OnCmdWrite` can do: run the decoded command, or treat the word as illegal. -/
theorem onCmdWrite_cases (w : CmdWord) (s : State) :
    (∃ i, decodeCommand w = some i ∧ i.place = .command ∧ onCmdWrite w s = exec i s) ∨
      (decodeCommand w = none ∧ onCmdWrite w s = .next (illegalCommand w s)) := by
  cases h : decodeCommand w with
  | some i => exact .inl ⟨i, rfl, decodeCommand_place h, by simp [onCmdWrite, h]⟩
  | none => exact .inr ⟨rfl, by simp [onCmdWrite, h]⟩

/-- With the reset input next, a step is that reset, whatever the engine was about to do (R260). -/
theorem step_reset {s : State} {rest : List HostMove} (h : s.hostMoves = .reset :: rest) :
    step s = .next { s with hostMoves := rest }.afterReset := by
  simp [step, State.resetNext, hostStep, hostMove, h]

/-- The four kinds of step that answer a next state. -/
theorem step_cases {s t : State} (h : step s = .next t) :
    (∃ rest, s.hostMoves = .reset :: rest ∧ t = { s with hostMoves := rest }.afterReset) ∨
    (s.resetNext = false ∧ s.status.busy = true ∧ ∃ u, onCmdWrite s.cmd s = .next u ∧ t = u.endCommand) ∨
    (s.resetNext = false ∧ s.status.busy = false ∧ ∃ p b, s.awaited = some (p, b) ∧ recordStep p b s = .next t) ∨
    (s.resetNext = false ∧ s.status.busy = false ∧ s.awaited = none ∧ hostStep s = .next t) := by
  cases hr : s.resetNext with
  | true =>
    obtain ⟨rest, hm⟩ : ∃ rest, s.hostMoves = .reset :: rest := by
      cases hm : s.hostMoves with
      | nil => simp [State.resetNext, hm] at hr
      | cons m rest => exact ⟨rest, by simpa [State.resetNext, hm] using hr⟩
    rw [step_reset hm] at h
    exact .inl ⟨rest, hm, by simpa using h.symm⟩
  | false =>
    rw [step, hr, if_neg (by simp)] at h
    split at h
    · next hb => exact .inr (.inl ⟨rfl, hb, mapNext_eq_next.mp h⟩)
    · next hb =>
      have hb : s.status.busy = false := by simpa using hb
      split at h
      · next p b ha => exact .inr (.inr (.inl ⟨rfl, hb, p, b, ha, h⟩))
      · next ha => exact .inr (.inr (.inr ⟨rfl, hb, ha, h⟩))

/-- With the reader idle the engine stands before no record. -/
theorem awaited_idle {s : State} (h : s.reader = .idle) : s.awaited = none := by
  rw [State.awaited]
  split
  · rfl
  · rw [h]

/-! ## The host -/

/-- What a host write of a register can change (R23, R29, R30): CMD and BUSY, or ILEN. -/
theorem writeReg_frame (s : State) (number value : Nat) :
    s.writeReg number value = s.withCommand (BitVec.ofNat 16 value) ∨ s.writeReg number value = s ∨
      (s.status.inputLocked = false ∧ value ≤ s.params.ibufCap ∧ s.writeReg number value = { s with ilen := value }) := by
  rw [State.writeReg.eq_def]
  split
  · exact .inl rfl
  · by_cases hl : s.status.inputLocked = true
    · exact .inr (.inl (by simp [State.writeIlen, hl]))
    · by_cases hv : s.params.ibufCap < value
      · exact .inr (.inl (by simp [State.writeIlen, hv]))
      · exact .inr (.inr ⟨by simpa using hl, by omega, by simp [State.writeIlen, hl, hv]⟩)
  · exact .inr (.inl rfl)

/-- What a move of the host can do: write a register, write a byte of IBUF while the lock is open, read, or reset. -/
theorem hostMove_cases {m : HostMove} {s t : State} (h : hostMove m s = .next t) :
    (∃ number value, t = s.writeReg number value) ∨ t = s ∨
    (∃ a v, a < s.params.ibufCap ∧ s.status.inputLocked = false ∧ t = { s with ibuf := Memory.write s.ibuf a v }) ∨
    (∃ v, t = s.returned v) ∨ (m = .reset ∧ t = s.afterReset) := by
  cases m with
  | writeReg number value => exact .inl ⟨number, value, by simpa [hostMove] using h.symm⟩
  | writeIbuf a v =>
    simp only [hostMove] at h
    split at h
    · cases h
    · next ha =>
      split at h
      · exact .inr (.inl (by simpa using h.symm))
      · next hl => exact .inr (.inr (.inl ⟨a, v, by omega, by simpa using hl, by simpa using h.symm⟩))
  | readIbuf a =>
    simp only [hostMove] at h
    split at h
    · cases h
    · split at h
      · exact .inr (.inr (.inr (.inl ⟨_, by simpa using h.symm⟩)))
      · cases h
  | readObuf a =>
    simp only [hostMove] at h
    split at h
    · cases h
    · split at h
      · cases h
      · split at h
        · exact .inr (.inr (.inr (.inl ⟨_, by simpa using h.symm⟩)))
        · cases h
  | reset => exact .inr (.inr (.inr (.inr ⟨rfl, by simpa [hostMove] using h.symm⟩)))
  | readReg number => exact .inr (.inr (.inr (.inl ⟨_, by simpa [hostMove] using h.symm⟩)))
  | readFreq sym => exact .inr (.inr (.inr (.inl ⟨_, by simpa [hostMove] using h.symm⟩)))
  | readOrder rank => exact .inr (.inr (.inr (.inl ⟨_, by simpa [hostMove] using h.symm⟩)))
  | readNode i => exact .inr (.inr (.inr (.inl ⟨_, by simpa [hostMove] using h.symm⟩)))
  | readCode sym => exact .inr (.inr (.inr (.inl ⟨_, by simpa [hostMove] using h.symm⟩)))

/-- The host's turn: nothing, or its next move. -/
theorem hostStep_cases {s t : State} (h : hostStep s = .next t) :
    (s.hostMoves = [] ∧ t = s) ∨
      ∃ m rest, s.hostMoves = m :: rest ∧ hostMove m { s with hostMoves := rest } = .next t := by
  rw [hostStep.eq_def] at h
  split at h
  · next hm => exact .inl ⟨hm, by simpa using h.symm⟩
  · next m rest hm => exact .inr ⟨m, rest, hm, h⟩

/-! ## Stream records (log 9) -/

/-- Closing a subtree writes NODE and the reader and nothing else. -/
theorem closeSubtree_frame (frames : List Frame) (i cur : Nat) (s : State) :
    closeSubtree i cur frames s =
      { s with nodes := (closeSubtree i cur frames s).nodes, reader := (closeSubtree i cur frames s).reader } := by
  induction frames generalizing i s with
  | nil => rfl
  | cons f frames ih =>
    cases f with
    | left shell => rfl
    | right shell l =>
      rw [closeSubtree]
      have ht := ih shell (s.setNode shell (Node.mkInternal l i 0))
      exact ht

/-- What a record's outcome can be. -/
theorem recordOutcome_eq_next {r : Res Unit} {t : State} (h : r.recordOutcome = .next t) :
    r = .ok () t ∨ ∃ k n u, r = .raised k n u ∧ t = u.leaveRecord.raise k n := by
  cases r with
  | ok a u => exact .inl (by simp only [Res.recordOutcome, Host.Outcome.next.injEq] at h; rw [h])
  | raised k n u => exact .inr ⟨k, n, u, rfl, by simpa [Res.recordOutcome] using h.symm⟩
  | stuck g => simp [Res.recordOutcome] at h

end Sys2Proof.Machine
end

