-- ==== Sys2Proof/Tests/Slice0.lean ====
section
/-!
SUPPORT. Tests and witnesses. A `test_` theorem is a small check whose expected values stand in spec/95_test_vectors.md or follow from
the rule named. A `witness_` theorem shows concrete states and operands that meet all the hypotheses of the obligation it is named
after, of each clause where it has several.
-/

namespace Sys2Proof.Tests

open Sys2Proof.Machine

-- One theorem after another: with the kernel checks of many tests in flight at once, Lean starts a thread for each.
set_option Elab.async false

/-! ## Small states -/

/-- Small valid parameters. -/
def p : Params := { cw := 32, aw := 32, ibufCap := 64, obufCap := 64 }

/-- Parameters with room for any container of a few symbols. -/
def wide : Params := { cw := 32, aw := 32, ibufCap := 64, obufCap := 1000 }

/-- The commands of a list run in order. -/
def run (is : List Instr) (s : State) : State :=
  is.foldl (fun s i => match exec i s with | .next t => t | .fault _ => s | .refused _ => s) s

/-- The state after one step. -/
def stepped (s : State) : State := match step s with | .next t => t | .fault _ => s | .refused _ => s

/-- Whether an outcome is a next state that passes a check. -/
def endsWith (check : State → Bool) (o : Host.Outcome State Fault Refusal) : Bool :=
  match o with
  | .next t => check t
  | .fault _ => false
  | .refused _ => false

theorem exists_next_of_endsWith {check : State → Bool} {o : Host.Outcome State Fault Refusal}
    (h : endsWith check o = true) : ∃ t, o = .next t ∧ check t = true := by
  cases o with
  | next t => exact ⟨t, rfl, h⟩
  | fault r => cases h
  | refused r => cases h

/-- The block after reset with bytes loaded. -/
def load (bytes : List Byte) : State := State.loaded p bytes

/-- "ab" loaded and counted. -/
def counted : State :=
  { load [0x61, 0x62] with
    freq := ((Vector.replicate 256 0).set 0x61 1).set 0x62 1, order := ((Vector.replicate 256 0).set 0 0x61).set 1 0x62,
    nsym := 2, total := 2 }

/-- The tree of "ab" as BUILD makes it. -/
def builtTree : Tree := .internal 2 (.leaf 1 0x61) (.leaf 1 0x62)

/-- The tree of "ab" built. -/
def built : State :=
  { counted with
    nodes := (((Vector.replicate 511 Node.zero).set 0 (Node.mkLeaf 0x61 1)).set 1 (Node.mkLeaf 0x62 1)).set 2
      (Node.mkInternal 0 1 2),
    nnode := 3, root := 2, code := builtTree.codeTable,
    status := { Status.reset with rootv := true, codev := true, phase := .built } }

/-- Its stream opened. -/
def stream : State := run [.sert] built

/-- The container of "ab" (95_test_vectors.md 1.1), its header read. -/
def header : State := run [.ldhdr] (load [0x03, 0x98, 0x4C, 0x48])

/-- Its tree read. -/
def payload : State := run [.deser] header

/-- The tree that stands in `payload`. -/
def abTree : Tree := .internal 0 (.leaf 0 0x61) (.leaf 0 0x62)

/-- The container of "aaabbc" with its header changed from 02 to 03 (95_test_vectors.md program 5), its tree read. -/
def cutPayload : State := run [.ldhdr, .deser] (load [0x03, 0x98, 0x66, 0x33, 0x10, 0xF8])

/-- The tree of "aaabbc". -/
def abcTree : Tree := .internal 0 (.leaf 0 0x61) (.internal 0 (.leaf 0 0x63) (.leaf 0 0x62))

/-- The engine before the LEAF record of 'a'. -/
def beforeLeaf : State := { load [0x00, 0x30, 0x80, 0x00] with reader := .tree 8 [] }

/-! ## Well-formedness and decoding -/

/-- R107, R115 (a). -/
theorem test_header_8_ill_formed : WellFormed (.hdr 8) = false ∧ WellFormed (.hdr 7) = true := by decide

/-- 95_test_vectors.md 2.1: the legal words of the system and frequency families. -/
theorem test_decode_system_and_frequency :
    decodeCommand 0x0000 = some .nop ∧ decodeCommand 0x0100 = some .clr ∧ decodeCommand 0x1061 = some (.fadd 0x61) ∧
      decodeCommand 0x10FF = some (.fadd 255) ∧ decodeCommand 0x1100 = some .faddt ∧
      decodeCommand 0x1200 = some (.fcnt 0) := by decide

/-- 95_test_vectors.md 2.1: the legal words of the tree, encoder, decoder and composite families. -/
theorem test_decode_tree_encoder_decoder :
    decodeCommand 0x2000 = some .build ∧ decodeCommand 0x2178 = some (.cwlk 0x78) ∧ decodeCommand 0x3000 = some .sert ∧
      decodeCommand 0x3163 = some (.enc 0x63) ∧ decodeCommand 0x3200 = some .enct ∧ decodeCommand 0x3300 = some .fin ∧
      decodeCommand 0x4000 = some .ldhdr ∧ decodeCommand 0x4100 = some .deser ∧ decodeCommand 0x4200 = some .dec1 ∧
      decodeCommand 0x4300 = some .decall ∧ decodeCommand 0x4400 = some .rewind ∧ decodeCommand 0x5000 = some .comp ∧
      decodeCommand 0x5100 = some .decomp := by decide

/-- R107 to R112: the records written out bit by bit, each with one bit after it. -/
theorem test_decode_records :
    decode .header [false, false, false, false, false, true, false, true, true] = .instr (.hdr 5) [true] ∧
      decode .tree [false, false, true, true, false, false, false, false, true, true] = .instr (.leaf 0x61) [true] ∧
      decode .tree [true, false] = .instr .internal [false] ∧ decode .payload [true, false] = .instr (.pbit true) [false] ∧
      decode .padding [true, false] = .instr .padbit [false] := by decide

/-- 95_test_vectors.md 2.1: illegal words. -/
theorem test_illegal_words :
    [0x0001#16, 0x0200, 0x0F00, 0x1101, 0x1300, 0x20FF, 0x2200, 0x3301, 0x3400, 0x4500, 0x5200, 0x6000, 0xFFFF].all
      (fun w => decodeCommand w == none) = true := by decide

/-- R115: a reserved header byte and a record cut short are refused by name. -/
theorem test_rejections :
    decode .header (bits8 8) = .rejected .reservedHeader ∧ decode .tree [false, true] = .rejected .incomplete ∧
      decode .command (bitsOfNat 16 0x0200) = .rejected .illegalCommand := by decide

/-- 95_test_vectors.md 2.1: an illegal word in the reset state leaves STATUS 0x02, CAUSE 3 and EINFO the word. -/
theorem test_illegal_word_step :
    ((fun t : State => (t.status.toByte, t.cause.code, t.einfo)) (stepped ((load []).withCommand 0x1101))) =
      (0x02#8, 3#4, 0x1101) := by decide +kernel

/-! ## Fetching from reset -/

theorem test_fetch_command : (stepped (State.reset.withFetchWord 16 0x1061)).total = 1 := by decide +kernel

theorem test_fetch_header : (stepped (State.reset.withFetchWord 8 5)).pad = 5 := by decide +kernel

theorem test_fetch_leaf : ((stepped (State.reset.withFetchWord 9 0x061)).nodeAt 0).sym = 0x61 := by decide +kernel

theorem test_fetch_internal : (stepped (State.reset.withFetchWord 1 1)).nnode = 1 := by decide +kernel

/-! ## One step per instruction -/

/-- R200, R224: NOP while a fault is recorded. -/
theorem test_nop : (run [.sert, .nop] (load [])).cause = .phaseError := by decide +kernel

/-- 95_test_vectors.md S8: CLR ends a recorded fault. -/
theorem test_clr : (run [.sert, .clr] (load [0x61])).status.toByte = 0x00 ∧ (run [.clr] (load [0x61])).ilen = 0 := by
  decide +kernel

/-- 95_test_vectors.md F4. -/
theorem test_fadd :
    (fun s : State => (s.nsym, s.total, s.orderList, s.freqOf 0, s.freqOf 255))
      (run [.fadd 0, .fadd 255, .fadd 0] (load [])) = (2, 3, [0x00, 0xFF], 2, 1) := by decide +kernel

/-- 95_test_vectors.md F5. -/
theorem test_faddt :
    (fun s : State => (s.nsym, s.total, s.orderList, s.freqOf 0x61, s.freqOf 0x62, s.freqOf 0x63))
      (run [.faddt] (load [0x61, 0x61, 0x61, 0x62, 0x62, 0x63])) = (3, 6, [0x61, 0x62, 0x63], 3, 2, 1) := by decide +kernel

/-- 95_test_vectors.md F2, F3. -/
theorem test_fcnt : (run [.fcnt 0x62] counted).rcount = 1 ∧ (run [.fcnt 0x62, .fcnt 0x7A] counted).rcount = 0 := by
  decide +kernel

/-- 95_test_vectors.md program 7: "ab" built. -/
theorem test_build :
    (fun s : State => (s.nnode, s.root, s.tree?, (s.codeOf 0x61).bits, (s.codeOf 0x62).bits, s.status.toByte))
      (run [.build] counted) = (3, 2, some builtTree, [false], [true], 0x38#8) := by decide +kernel

/-- 95_test_vectors.md 1.4: with equal counts the leaf goes before the new node. -/
theorem test_build_tie :
    (run [.faddt, .build] (load [0x61, 0x62, 0x63, 0x63])).tree? =
      some (.internal 4 (.leaf 2 0x63) (.internal 2 (.leaf 1 0x61) (.leaf 1 0x62))) := by decide +kernel

/-- 95_test_vectors.md program 7 (codes) and program 4 (unknown symbol). -/
theorem test_cwlk :
    (fun s : State => (s.rlen, s.rcode)) (run [.cwlk 0x62] built) = (1, [true]) ∧
      (fun s : State => (s.cause, s.einfo)) (run [.cwlk 0x63] built) = (.unknownSymbol, 0x63) := by decide +kernel

/-- 95_test_vectors.md program 7: SERT of "ab". -/
theorem test_sert :
    (fun s : State => (s.outBytes, s.olen, s.acc, s.accn, s.status.toByte)) stream =
      ([0x00, 0x98, 0x4C], 3, 0x40#8, 3#3, 0x58#8) := by decide +kernel

/-- 95_test_vectors.md program 7: ENC 'a', then ENC of a symbol never counted. -/
theorem test_enc :
    (fun s : State => (s.acc, s.accn)) (run [.enc 0x61] stream) = (0x40#8, 4#3) ∧
      (fun s : State => (s.cause, s.einfo, s.accn)) (run [.enc 0x63] stream) = (.unknownSymbol, 0x63, 3#3) := by
  decide +kernel

/-- 95_test_vectors.md 1.1: ENCT and FIN complete the container of "ab". -/
theorem test_enct : (run [.enct] stream).accn = 5 := by decide +kernel

theorem test_fin :
    (fun s : State => (s.outBytes, s.pad, s.status.toByte)) (run [.enct, .fin] stream) =
      ([0x03, 0x98, 0x4C, 0x48], 3#3, 0x78#8) := by decide +kernel

/-- 95_test_vectors.md program 2 (LDHDR) and R182. -/
theorem test_ldhdr :
    (fun s : State => (s.pad, s.icur, s.status.toByte)) header = (3#3, 8, 0x80#8) ∧
      (run [.ldhdr] (load [])).status.toByte = 0x74 := by decide +kernel

/-- R183: the container of "ab" has a tree of 19 bits. -/
theorem test_deser :
    (fun s : State => (s.tree?, s.nnode, s.root, s.icur, s.pstart, s.pend, s.status.toByte)) payload =
      (some abTree, 3, 0, 27, 27, 29, 0xB8#8) := by decide +kernel

/-- 95_test_vectors.md 1.5: eight bits after the header are one short of a LEAF record. -/
theorem test_deser_cut :
    (fun s : State => (s.status.toByte, s.cause, s.einfo)) (run [.ldhdr, .deser] (load [0x07, 0x3C])) =
      (0x82#8, .malformedStream, 8) := by decide +kernel

theorem test_dec1 : (fun s : State => (s.rsym, s.icur)) (run [.dec1] payload) = (0x61#8, 28) := by decide +kernel

/-- 95_test_vectors.md program 2: one DEC1 too many. -/
theorem test_dec1_end :
    (fun s : State => (s.cause, s.einfo, s.icur)) (run [.decall, .dec1] payload) = (.malformedStream, 29, 29) := by
  decide +kernel

theorem test_decall : (fun s : State => (s.outBytes, s.icur)) (run [.decall] payload) = ([0x61, 0x62], 29) := by
  decide +kernel

/-- 95_test_vectors.md program 5: the partial result stays. -/
theorem test_decall_partial :
    (fun s : State => (s.outBytes, s.icur, s.einfo, s.status.toByte)) (run [.decall] cutPayload) =
      ([0x61, 0x61, 0x61, 0x62, 0x62], 44, 44, 0xBA#8) := by decide +kernel

theorem test_rewind : (fun s : State => (s.icur, s.olen)) (run [.decall, .rewind] payload) = (27, 0) := by decide +kernel

/-- 95_test_vectors.md 1.1: "aaabbc". -/
theorem test_comp :
    (run [.comp] (load [0x61, 0x61, 0x61, 0x62, 0x62, 0x63])).outBytes = [0x02, 0x98, 0x66, 0x33, 0x10, 0xF8] := by
  decide +kernel

/-- 95_test_vectors.md program 3: "xxxx". -/
theorem test_comp_one_symbol : (run [.comp] (load [0x78, 0x78, 0x78, 0x78])).outBytes = [0x07, 0x3C, 0x00] := by
  decide +kernel

/-- 95_test_vectors.md 1.1: "aab". -/
theorem test_decomp : (run [.decomp] (load [0x02, 0x98, 0x8C, 0x38])).outBytes = [0x61, 0x61, 0x62] := by decide +kernel

/-- 95_test_vectors.md S9: the host's writes are ignored after LDHDR. -/
theorem test_input_lock :
    (fun s : State => (s.ilen, s.memRead 0))
      (stepped (stepped { header with hostMoves := [.writeReg 4 2, .writeIbuf 0 0x7A] })) = (4, 0x03#8) := by decide +kernel

/-- R23, R27, R22: STATUS of a built "ab" reads 0x38 (95_test_vectors.md program 7), and RCODE `10` has bit 254 set. -/
theorem test_read_registers :
    (stepped { built with hostMoves := [.readReg 1] }).hostData = .number 0x38 ∧
      (stepped { built with rcode := [true, false], rlen := 2, hostMoves := [.readReg 19] }).hostData
        = .number (2 ^ 254) := by decide +kernel

/-- R29, R30, R73: writes of CMD, ILEN and IBUF. -/
theorem test_host_writes :
    (fun s : State => (s.cmd, s.status.busy)) (stepped { built with hostMoves := [.writeReg 0 0x3000] }) = (0x3000#16, true) ∧
      (stepped { built with hostMoves := [.writeReg 4 64] }).ilen = 64 ∧
      (stepped { built with hostMoves := [.writeIbuf 63 0x7A] }).memRead 63 = 0x7A := by decide +kernel

/-- R107 and R115 (a). -/
theorem test_hdr :
    (run [.hdr 5] (load [0x05])).icur = 8 ∧ (run [.hdr 8] (load [0x08])).cause = .badHeader := by decide +kernel

/-- R108, R183. -/
theorem test_leaf :
    (fun s : State => (s.nodeAt 0, s.reader)) (run [.leaf 0x61] beforeLeaf) =
      ({ leaf := true, sym := 0x61, left := 0, right := 0, count := 0 }, .treeDone 0 17) := by decide +kernel

/-- R109, R110: the node of INTERNAL comes before those of its subtrees. -/
theorem test_internal :
    (fun s : State => (s.nodeAt 0, s.reader))
      (run [.internal, .leaf 0x61, .leaf 0x62] { load [0x03, 0x98, 0x4C, 0x48] with reader := .tree 8 [] }) =
      ({ leaf := false, sym := 0, left := 1, right := 2, count := 0 }, .treeDone 0 27) := by decide +kernel

/-- R111: 0 goes left, 1 goes right. -/
theorem test_pbit :
    (run [.pbit false] { payload with reader := .walk 27 27 0 }).reader = .walk 27 28 1 ∧
      (run [.pbit true] { payload with reader := .walk 27 27 0 }).reader = .walk 27 28 2 := by decide +kernel

/-- R112: ignored on input. -/
theorem test_padbit : (run [.padbit] payload).icur = 27 := by decide +kernel

/-- R260: the reset input abandons a waiting command and a record sequence, at a leaf too. -/
theorem test_reset_any_time :
    (stepped { built.withCommand 0x3000 with hostMoves := [.reset] }).status.toByte = 0x00 ∧
      (stepped { payload with reader := .walk 27 27 0, hostMoves := [.reset] }).reader = .idle ∧
      (stepped { payload with reader := .walk 27 28 1, hostMoves := [.readReg 7, .reset] }).hostData = .number 27 := by
  decide +kernel

/-- R115 (a), log 9: a reserved header byte raises BadHeader in phase COUNT only. -/
theorem test_reserved_header :
    (stepped { load [0x08] with reader := .header }).cause = .badHeader ∧
      endsWith (fun _ => true) (step { payload with ibuf := [(0, 0x08)], reader := .header }) = false := by decide +kernel

/-! ## Invariants of the small states -/

theorem p_valid : p.Valid where
  aw := by decide
  ibufCap_pos := by decide
  ibufCap_le := by decide
  obufCap_pos := by decide
  obufCap_le := by decide

theorem counted_orderList : counted.orderList = [0x61, 0x62] := by decide +kernel

theorem counted_freqOf (sym : Byte) : counted.freqOf sym = if sym = 0x61#8 ∨ sym = 0x62#8 then 1 else 0 := by
  have ha : (97 = sym.toNat) ↔ sym = 0x61#8 := by rw [← BitVec.toNat_inj]; exact eq_comm
  have hb : (98 = sym.toNat) ↔ sym = 0x62#8 := by rw [← BitVec.toNat_inj]; exact eq_comm
  simp only [counted, State.freqOf, Vector.getElem_set, Vector.getElem_replicate, ha, hb]
  split <;> split <;> simp_all

theorem counted_freqOk : counted.FreqOk where
  nsym_le := by decide
  nodup := by rw [counted_orderList]; decide
  mem_iff sym := by rw [counted_orderList, counted_freqOf]; split <;> simp_all
  total_eq := by decide +kernel
  total_le := by decide +kernel

/-- SERT waiting in CMD, after BUILD. -/
def sertWaiting : State := built.withCommand 0x3000

theorem sertWaiting_statusOk : sertWaiting.StatusOk where
  flags := ⟨rfl, rfl, rfl⟩
  cause_iff := by decide
  einfo_zero := by decide
  cmd_zero := by decide
  reader_idle := rfl

theorem sertWaiting_inv : sertWaiting.Inv where
  params := p_valid
  freq := ⟨counted_freqOk.nsym_le, counted_freqOk.nodup, counted_freqOk.mem_iff, counted_freqOk.total_eq,
    counted_freqOk.total_le⟩
  mem := ⟨by decide, by decide, by decide, by decide, by decide, by decide, fun _ h => absurd h (Nat.not_lt_zero _)⟩
  status := sertWaiting_statusOk
  tree := ⟨by decide, fun _ => ⟨builtTree, by decide +kernel, rfl, rfl, by decide +kernel⟩, fun h => nomatch h⟩
  cursor := ⟨rfl, rfl, rfl⟩
  acc := fun _ => ⟨by unfold State.AccLowZero; decide, fun _ => ⟨rfl, rfl⟩⟩
  range := ⟨by decide, by decide, by decide, rfl⟩

/-! ## Witnesses for the obligations' hypotheses -/

theorem witness_DecodeInvertsEncode : WellFormed (.hdr 7) = true ∧ WellFormed (.leaf 0xFF) = true := by decide

theorem witness_CommandWordIsUnique :
    decodeCommand 0x31FF = some (.enc 0xFF) ∧ decodeCommand 0x5100 = some .decomp := by decide

theorem witness_StepRunsCommand :
    sertWaiting.resetNext = false ∧ sertWaiting.status.busy = true ∧ decodeCommand sertWaiting.cmd = some .sert := by decide

/-- A header, a tree and a payload record. -/
theorem witness_StepRunsRecord :
    (fun s : State => s.resetNext = false ∧ s.status.busy = false ∧ s.awaited = some (.header, 0) ∧
        decode .header (s.recordBits .header 0) = .instr (.hdr 7) [])
      { load [0x07] with reader := .header } ∧
    (fun s : State => s.resetNext = false ∧ s.status.busy = false ∧ s.awaited = some (.tree, 8) ∧
        decode .tree (s.recordBits .tree 8) = .instr (.leaf 0x61) []) beforeLeaf ∧
    (fun s : State => s.resetNext = false ∧ s.status.busy = false ∧ s.awaited = some (.payload, 28) ∧
        decode .payload (s.recordBits .payload 28) = .instr (.pbit true) [])
      { payload with reader := .walk 28 28 0 } := by decide +kernel

theorem witness_IllegalWordFaults :
    (fun s : State => s.resetNext = false ∧ s.status.busy = true ∧ s.status.err = false ∧ decodeCommand s.cmd = none)
      ((load []).withCommand 0x0001) := by decide

/-- A legal and an illegal word. -/
theorem witness_RecordedFaultIgnoresCommands :
    (fun s : State => s.resetNext = false ∧ s.status.busy = true ∧ s.status.err = true ∧ s.cmd ≠ 0x0100#16)
        (((load []).raise .phaseError 0x3000).withCommand 0x1061) ∧
      (fun s : State => s.resetNext = false ∧ s.status.busy = true ∧ s.status.err = true ∧ s.cmd ≠ 0x0100#16)
        (((load []).raise .phaseError 0x3000).withCommand 0x0101) := by decide

theorem witness_OutOfPhaseFaults :
    Instr.place .sert = .command ∧ (load []).status.err = false ∧ (load []).status.permits .sert = false := by decide

theorem witness_LegalCommandsByPhase :
    Instr.place .comp = .command ∧ Status.reset.permits .comp = true ∧ Status.reset.permits (.cwlk 0) = false := by decide

theorem witness_PhaseFollowsTable :
    counted.status.flagsOk ∧ counted.status.err = false ∧ Instr.place .build = .command ∧
      ∃ t, exec .build counted = .next t ∧ t.status.err = false :=
  ⟨⟨rfl, rfl, rfl⟩, rfl, rfl, by
    simpa using exists_next_of_endsWith (check := fun t => !t.status.err) (o := exec .build counted) (by decide +kernel)⟩

theorem witness_FaultKeepsPhase :
    counted.status.err = false ∧ Instr.place .sert = .command ∧ Instr.sert ≠ .comp ∧ Instr.sert ≠ .decomp ∧
      ∃ t, exec .sert counted = .next t ∧ t.status.err = true :=
  ⟨rfl, rfl, nofun, nofun, exists_next_of_endsWith (check := fun t => t.status.err) (by decide +kernel)⟩

/-- With the engine idle, with a command waiting, and inside a codeword. -/
theorem witness_ClrAndResetDiscardAll :
    ({ payload with hostMoves := [.reset] } : State).hostMoves = .reset :: [] ∧
      (fun s : State => s.hostMoves = .reset :: [] ∧ s.status.busy = true) { sertWaiting with hostMoves := [.reset] } ∧
      (fun s : State => s.hostMoves = .reset :: [] ∧ s.awaited.isSome)
        { payload with reader := .walk 27 27 0, hostMoves := [.reset] } := by decide +kernel

/-- A host write of ILEN while the lock is closed, and a command that runs. -/
theorem witness_InputIsLockedWhileDecoding :
    (fun s : State => (∃ t, step s = .next t ∧ true = true) ∧ s.discards = false ∧ s.status.inputLocked = true)
        { header with hostMoves := [.writeReg 4 2] } ∧
      (fun s : State => (∃ t, step s = .next t ∧ true = true) ∧ s.discards = false ∧ s.status.busy = true) sertWaiting :=
  ⟨⟨exists_next_of_endsWith (check := fun _ => true) (by decide +kernel), by decide +kernel, by decide +kernel⟩,
    exists_next_of_endsWith (check := fun _ => true) (by decide +kernel), by decide +kernel, by decide +kernel⟩

/-- The host's next move, the engine idle. -/
def hostNext (m : HostMove) (s : State) : State := { s with hostMoves := [m] }

/-- For each clause a state with that move first, at the ends of its range: the largest ILEN and one more, the lock closed, the last byte
of IBUF, the last assigned number and the first unassigned one, the last entry of a file, a written byte and an unspecified one. -/
theorem witness_HostPortReadsAndWrites :
    (∀ m ∈ [HostMove.writeReg 0 (0xFFFF#16).toNat, .writeReg 4 64, .writeReg 4 65, .writeReg 1 0, .writeReg 20 7,
        .writeIbuf 63 1, .readReg 18, .readReg 19, .readReg 20, .readFreq 255, .readOrder 255, .readNode 510,
        .readCode 255],
      (hostNext m stream).status.busy = false ∧ (hostNext m stream).awaited = none ∧
        (hostNext m stream).hostMoves = [m]) ∧
    (63 < stream.params.ibufCap ∧ stream.status.phase ≠ .hdr ∧ stream.status.phase ≠ .payload ∧
      (18, stream.rlen) ∈ stream.registerMap) ∧
    (∀ m ∈ [HostMove.writeReg 4 2, .writeIbuf 0 1, .readIbuf 3, .readIbuf 4],
      (hostNext m header).status.busy = false ∧ (hostNext m header).awaited = none ∧
        (hostNext m header).hostMoves = [m]) ∧
    (header.status.phase = .hdr ∧ 4 < header.params.ibufCap ∧ Memory.read? header.ibuf 3 = some 0x48 ∧
      Memory.read? header.ibuf 4 = none) ∧
    (∀ m ∈ [HostMove.readObuf 2, .readObuf 3],
      (hostNext m stream).status.busy = false ∧ (hostNext m stream).awaited = none ∧
        (hostNext m stream).hostMoves = [m]) ∧
    3 < stream.params.obufCap ∧ 2 < stream.olen ∧ Memory.read? stream.obuf 2 = some 0x4C ∧ stream.olen ≤ 3 := by
  decide +kernel

/-- A new symbol, a symbol seen before, a full count, and another phase. -/
theorem witness_FaddCountsSymbol :
    (fun s : State => s.status.err = false ∧ s.status.phase = .count ∧ s.total < s.params.countMax ∧
      (s.freqOf 0x61 = 0 → s.nsym < 256) ∧ (s.freqOf 0x63 = 0 → s.nsym < 256)) counted ∧
    (fun s : State => s.status.err = false ∧ s.status.phase = .count ∧ s.total = s.params.countMax)
      { counted with total := 2 ^ 32 - 1 } ∧
    (fun s : State => s.status.err = false ∧ s.status.phase ≠ .count) built := by decide +kernel

theorem witness_FaddtCountsText :
    counted.FreqOk ∧ counted.status.err = false ∧ counted.status.phase = .count ∧
      counted.total + counted.ilen ≤ counted.params.countMax :=
  ⟨counted_freqOk, by decide, by decide, by decide⟩

/-- A block whose counts have two bits, and a text of three symbols where one count is left. -/
theorem witness_FaddtOverflowKeepsCounted :
    (fun s : State => s.FreqOk ∧ s.status.err = false ∧ s.status.phase = .count ∧
      s.inputText.drop (s.params.countMax - s.total) = 0x61#8 :: [0x62])
      { counted with
        params := { p with cw := 2 }, ibuf := Memory.writeList [] 0 [0x63, 0x61, 0x62], ilen := 3 } :=
  ⟨⟨counted_freqOk.nsym_le, counted_freqOk.nodup, counted_freqOk.mem_iff, counted_freqOk.total_eq, by decide⟩,
    by decide, by decide, by decide +kernel⟩

theorem witness_FcntReadsCount : counted.status.err = false := by decide

/-- FADDT waiting in CMD. -/
theorem witness_StepKeepsFrequencyTable :
    (counted.withCommand 0x1100).FreqOk ∧ ∃ t, step (counted.withCommand 0x1100) = .next t ∧ (t.total == 4) = true :=
  ⟨⟨counted_freqOk.nsym_le, counted_freqOk.nodup, counted_freqOk.mem_iff, counted_freqOk.total_eq,
    counted_freqOk.total_le⟩, exists_next_of_endsWith (by decide +kernel)⟩

theorem witness_FrequencyTableNeverShrinks :
    (counted.withCommand 0x1100).discards = false ∧
      ∃ t, step (counted.withCommand 0x1100) = .next t ∧ (t.total == 4) = true :=
  ⟨by decide, exists_next_of_endsWith (by decide +kernel)⟩

theorem witness_EmptyShortCircuits :
    (fun s : State => s.status.err = false ∧ s.status.phase = .count ∧ s.nsym = 0 ∧ s.ilen = 0) (load []) := by decide

theorem witness_BuildLaysOutNodes :
    counted.FreqOk ∧ counted.status.err = false ∧ counted.status.phase = .count ∧ 1 ≤ counted.nsym :=
  ⟨counted_freqOk, by decide, by decide, by decide⟩

theorem witness_BuildAgreesWithTwoQueues :
    counted.FreqOk ∧ counted.status.err = false ∧ counted.status.phase = .count ∧ 1 ≤ counted.nsym :=
  witness_BuildLaysOutNodes

theorem witness_BuiltTreeCountsTheTable :
    counted.FreqOk ∧ counted.status.err = false ∧ counted.status.phase = .count ∧ 1 ≤ counted.nsym :=
  witness_BuildLaysOutNodes

theorem witness_BuiltCodeIsPrefixFree :
    counted.FreqOk ∧ counted.status.err = false ∧ counted.status.phase = .count ∧ 1 ≤ counted.nsym :=
  witness_BuildLaysOutNodes

/-- A symbol with a codeword and one without, and no code table. -/
theorem witness_CwlkReturnsCodeword :
    built.status.err = false ∧ built.status.codev = true ∧ (built.codeOf 0x61).valid = true ∧
      (built.codeOf 0x63).valid = false ∧ counted.status.err = false ∧ counted.status.codev = false := by decide +kernel

theorem witness_TreeAndCodeNeverChange :
    sertWaiting.StatusOk ∧ sertWaiting.status.rootv = true ∧ sertWaiting.discards = false ∧
      ∃ t, step sertWaiting = .next t ∧ (t.olen == 3) = true :=
  ⟨sertWaiting_statusOk, by decide, by decide, exists_next_of_endsWith (by decide +kernel)⟩

/-- With OBUF just large enough. -/
theorem witness_SertWritesTree :
    (fun s : State => s.status.err = false ∧ s.status.phase = .built ∧ s.tree? = some builtTree ∧
      1 + builtTree.ser.length / 8 ≤ s.params.obufCap) { built with params := { p with obufCap := 3 } } := by
  decide +kernel

theorem stream_accLowZero : stream.AccLowZero := by unfold State.AccLowZero; decide +kernel

theorem witness_EncAppendsCodeword :
    stream.status.err = false ∧ stream.status.phase = .stream ∧ stream.AccLowZero ∧ (stream.codeOf 0x61).valid = true ∧
      stream.olen + (stream.accn.toNat + (stream.codeOf 0x61).bits.length) / 8 ≤ stream.params.obufCap :=
  ⟨by decide +kernel, by decide +kernel, stream_accLowZero, by decide +kernel, by decide +kernel⟩

theorem witness_EncUnknownSymbolFaults :
    stream.status.err = false ∧ stream.status.phase = .stream ∧ (stream.codeOf 0x63).valid = false := by decide +kernel

theorem witness_EncOverflowKeepsBytes :
    (fun s : State => s.status.err = false ∧ s.status.phase = .stream ∧
      s.codeOf 0x62 = { valid := true, len := ([] : Bits).length + 1, bits := [true] } ∧ s.accn = 7 ∧
      s.olen = s.params.obufCap) { stream with accn := 7, olen := 64 } := by decide +kernel

theorem witness_EnctAppendsCodewords :
    stream.status.err = false ∧ stream.status.phase = .stream ∧ stream.AccLowZero ∧ stream.encodes stream.inputText ∧
      stream.olen + (stream.accn.toNat + (stream.codewords stream.inputText).length) / 8 ≤ stream.params.obufCap :=
  ⟨by decide +kernel, by decide +kernel, stream_accLowZero, by unfold State.encodes; decide +kernel, by decide +kernel⟩

/-- The text "ac", whose second symbol was never counted. -/
def unknownText : State := stream.withInput [0x61, 0x63]

theorem witness_EnctUnknownSymbolKeepsWritten :
    unknownText.status.err = false ∧ unknownText.status.phase = .stream ∧ unknownText.AccLowZero ∧
      unknownText.inputText = [0x61#8] ++ 0x63#8 :: [] ∧ unknownText.encodes [0x61] ∧
      (unknownText.codeOf 0x63).valid = false ∧
      unknownText.olen + (unknownText.accn.toNat + (unknownText.codewords [0x61]).length) / 8
        ≤ unknownText.params.obufCap :=
  ⟨by decide +kernel, by decide +kernel, stream_accLowZero, by decide +kernel, by unfold State.encodes; decide +kernel,
    by decide +kernel, by decide +kernel⟩

/-- Waiting bits with room for them, no waiting bits with OBUF full, and waiting bits with OBUF full. -/
theorem witness_FinPadsAndBackfills :
    (stream.status.err = false ∧ stream.status.phase = .stream ∧ stream.AccLowZero ∧ 1 ≤ stream.olen ∧
      stream.accn ≠ 0 ∧ stream.olen < stream.params.obufCap) ∧
    (fun s : State => s.status.err = false ∧ s.status.phase = .stream ∧ s.AccLowZero ∧ 1 ≤ s.olen ∧
      s.accn = 0 ∧ s.olen = s.params.obufCap) { stream with acc := 0, accn := 0, olen := 64 } ∧
    (fun s : State => s.status.err = false ∧ s.status.phase = .stream ∧ s.AccLowZero ∧ 1 ≤ s.olen ∧
      s.accn ≠ 0 ∧ s.olen = s.params.obufCap) { stream with olen := 64 } :=
  ⟨⟨by decide +kernel, by decide +kernel, stream_accLowZero, by decide +kernel, by decide +kernel, by decide +kernel⟩,
    ⟨by decide +kernel, by decide +kernel, by unfold State.AccLowZero; decide, by decide +kernel, by decide +kernel,
      by decide +kernel⟩,
    by decide +kernel, by decide +kernel, stream_accLowZero, by decide +kernel, by decide +kernel, by decide +kernel⟩

/-- ENC of 'a', then ENCT of "b", into an OBUF just large enough. -/
theorem witness_ContainerContent :
    (fun (s : State) (moves : List EncodeMove) => s.status.err = false ∧ s.status.phase = .built ∧
      s.tree? = some builtTree ∧ s.encodes (moves.flatMap EncodeMove.text) ∧
      1 + (builtTree.ser.length + (s.codewords (moves.flatMap EncodeMove.text)).length + 7) / 8 ≤ s.params.obufCap)
      { built with params := { p with obufCap := 4 } } [.enc 0x61, .enct [0x62]] :=
  ⟨by decide, by decide, by decide +kernel, by unfold State.encodes; decide +kernel, by decide +kernel⟩

theorem witness_LdhdrReadsHeader :
    (fun s : State => s.status.err = false ∧ s.status.phase = .count ∧ (7#8).toNat < 8 ∧ 8 ≤ (8#8).toNat ∧ 1 ≤ s.ilen ∧
      (s.memRead 0).toNat < 8) (load [0x07]) ∧
    (fun s : State => s.status.err = false ∧ s.status.phase = .count ∧ 1 ≤ s.ilen ∧ 8 ≤ (s.memRead 0).toNat)
      (load [0x08]) := by decide

/-- An internal root, and a leaf whose padding ends exactly at the end of the input. -/
theorem witness_DeserRebuildsTree :
    (fun (s : State) (tree : Tree) => s.status.err = false ∧ s.status.phase = .hdr ∧ tree.size ≤ 511 ∧
      s.inBits s.icur tree.ser.length = tree.ser ∧ s.icur + tree.ser.length + s.pad.toNat ≤ 8 * s.ilen) header abTree ∧
    (fun (s : State) (tree : Tree) => s.status.err = false ∧ s.status.phase = .hdr ∧ tree.size ≤ 511 ∧
      s.inBits s.icur tree.ser.length = tree.ser ∧ s.icur + tree.ser.length + s.pad.toNat = 8 * s.ilen)
      (run [.ldhdr] (load [0x07, 0x3C, 0x00])) (.leaf 0 0x78) := by decide +kernel

/-- A tree cut one bit short. -/
theorem witness_DeserFaultKeepsRegisters :
    (fun s : State => s.status.err = false ∧ s.status.phase = .hdr ∧
      ∃ t, exec .deser s = .next t ∧ t.status.err = true) (run [.ldhdr] (load [0x07, 0x3C])) :=
  ⟨by decide +kernel, by decide +kernel,
    exists_next_of_endsWith (check := fun t => t.status.err) (by decide +kernel)⟩

/-- Padding that just fits, and padding one bit too long. -/
theorem witness_DeserDelimitsPayload :
    (fun (s : State) (tree : Tree) => s.status.err = false ∧ s.status.phase = .hdr ∧ tree.size ≤ 511 ∧
      s.inBits s.icur tree.ser.length = tree.ser ∧ s.icur + tree.ser.length ≤ 8 * s.ilen ∧
      s.icur + tree.ser.length + s.pad.toNat ≤ 8 * s.ilen) (run [.ldhdr] (load [0x05, 0x98, 0x4C, 0x40])) abTree ∧
    (fun (s : State) (tree : Tree) => s.status.err = false ∧ s.status.phase = .hdr ∧ tree.size ≤ 511 ∧
      s.inBits s.icur tree.ser.length = tree.ser ∧ s.icur + tree.ser.length ≤ 8 * s.ilen ∧
      8 * s.ilen < s.icur + tree.ser.length + s.pad.toNat) (run [.ldhdr] (load [0x06, 0x98, 0x4C, 0x40])) abTree := by
  decide +kernel

/-- A codeword left, and none left. -/
theorem witness_Dec1DecodesOne :
    (fun s : State => s.status.err = false ∧ s.status.phase = .payload ∧ s.tree? = some abTree ∧ s.icur ≤ s.pend ∧
      abTree.decodeOne s.payloadLeft = some (0x61, [true])) payload ∧
    (fun s : State => s.status.err = false ∧ s.status.phase = .payload ∧ s.tree? = some abTree ∧ s.icur ≤ s.pend ∧
      abTree.decodeOne s.payloadLeft = none) { payload with icur := 29 } := by decide +kernel

/-- A payload under an internal root, and the empty payload of a single leaf. -/
theorem witness_DecallDecodesPayload :
    (fun (s : State) (tree : Tree) (entries : List (Byte × Bits)) => s.status.err = false ∧ s.status.phase = .payload ∧
      s.tree? = some tree ∧ (tree.isLeaf = true → entries = []) ∧ (∀ e ∈ entries, e ∈ tree.paths []) ∧
      s.icur ≤ s.pend ∧ s.payloadLeft = entries.flatMap Prod.snd ∧ s.olen + entries.length ≤ s.params.obufCap)
      payload abTree [(0x61, [false]), (0x62, [true])] ∧
    (fun (s : State) (tree : Tree) (entries : List (Byte × Bits)) => s.status.err = false ∧ s.status.phase = .payload ∧
      s.tree? = some tree ∧ (tree.isLeaf = true → entries = []) ∧ (∀ e ∈ entries, e ∈ tree.paths []) ∧
      s.icur ≤ s.pend ∧ s.payloadLeft = entries.flatMap Prod.snd ∧ s.olen + entries.length ≤ s.params.obufCap)
      (run [.ldhdr, .deser] (load [0x07, 0x3C, 0x00])) (.leaf 0 0x78) [] := by decide +kernel

theorem witness_DecallKeepsPartialResult :
    (fun (s : State) (entries : List (Byte × Bits)) (tail : Bits) => s.status.err = false ∧ s.status.phase = .payload ∧
      s.tree? = some abcTree ∧ (∀ e ∈ entries, e ∈ abcTree.paths []) ∧ s.icur ≤ s.pend ∧
      s.payloadLeft = entries.flatMap Prod.snd ++ tail ∧ tail ≠ [] ∧ abcTree.decodeOne tail = none ∧
      s.olen + entries.length ≤ s.params.obufCap)
      cutPayload
      [(0x61, [false]), (0x61, [false]), (0x61, [false]), (0x62, [true, true]), (0x62, [true, true])] [true] := by
  decide +kernel

/-- Room for one symbol of two. -/
theorem witness_DecallOverflowKeepsPartialResult :
    (fun (s : State) (entries : List (Byte × Bits)) (e : Byte × Bits) (rest : Bits) => s.status.err = false ∧
      s.status.phase = .payload ∧ s.tree? = some abTree ∧ abTree.isLeaf = false ∧
      (∀ x ∈ entries ++ [e], x ∈ abTree.paths []) ∧ s.icur ≤ s.pend ∧
      s.payloadLeft = entries.flatMap Prod.snd ++ e.2 ++ rest ∧ s.olen + entries.length = s.params.obufCap)
      { payload with params := { p with obufCap := 1 } } [(0x61, [false])] (0x62, [true]) [] := by decide +kernel

theorem witness_DecallDegenerateFaults :
    (fun s : State => s.status.err = false ∧ s.status.phase = .payload ∧ s.root < s.nnode ∧
      (s.nodeAt s.root).leaf = true ∧ s.icur < s.pend) (run [.ldhdr, .deser] (load [0x06, 0x3C, 0x00])) := by decide +kernel

theorem witness_RewindRestartsDecoding :
    payload.status.err = false ∧ payload.status.phase = .payload ∧ built.status.err = false ∧
      built.status.phase ≠ .payload := by decide +kernel

/-- The last LEAF and the last INTERNAL that fit, the end of the input, and a full node store. -/
theorem witness_TreeRecordsTakeNodes :
    (fun s : State => s.status.err = false ∧ s.reader = .tree 23 [] ∧ s.nnode < 511 ∧ 23 + 9 ≤ 8 * s.ilen)
        { beforeLeaf with reader := .tree 23 [], nnode := 510 } ∧
      (fun s : State => s.status.err = false ∧ s.reader = .tree 31 [] ∧ s.nnode < 511 ∧ 31 < 8 * s.ilen)
        { beforeLeaf with reader := .tree 31 [], nnode := 510 } ∧
      (fun s : State => s.status.err = false ∧ s.reader = .tree 32 [] ∧ 8 * s.ilen ≤ 32)
        { beforeLeaf with reader := .tree 32 [] } ∧
      (fun s : State => s.status.err = false ∧ s.reader = .tree 31 [] ∧ 31 < 8 * s.ilen ∧ 511 ≤ s.nnode)
        { beforeLeaf with reader := .tree 31 [], nnode := 511 } := by decide

theorem witness_PayloadAndPaddingBits :
    (fun s : State => s.status.err = false ∧ s.reader = .walk 28 28 0 ∧ 0 < s.nnode ∧ (s.nodeAt 0).leaf = false ∧
      28 < s.pend) { payload with reader := .walk 28 28 0 } := by decide +kernel

theorem exists_of_answers {α : Type} [DecidableEq α] {r : Res α} {a : α}
    (h : (match r with | .ok x _ => decide (x = a) | .raised _ _ _ => false | .stuck _ => false) = true) :
    ∃ t, r = .ok a t := by
  cases r with
  | ok x t => exact ⟨t, by rw [of_decide_eq_true h]⟩
  | raised k n t => cases h
  | stuck g => cases h

theorem witness_RecordByRecordReadsTree :
    beforeLeaf.resetNext = false ∧ beforeLeaf.status.busy = false ∧ beforeLeaf.status.err = false ∧
      beforeLeaf.reader = .tree 8 [] ∧ ∃ t, des 1 8 beforeLeaf = .ok (0, 17) t :=
  ⟨by decide, by decide, by decide, by decide, exists_of_answers (by decide +kernel)⟩

theorem witness_CompositesAreTheirParts : counted.status.err = false ∧ counted.status.phase = .count := by decide

theorem witness_CompCompressesText :
    (fun s : State => s.FreqOk ∧ s.status.err = false ∧ s.status.phase = .count ∧ s.status.empty = false ∧
      1 ≤ s.nsym + s.ilen ∧ s.total + s.ilen ≤ s.params.countMax ∧
      1 + (2559 + 255 * s.ilen + 7) / 8 ≤ s.params.obufCap) { counted with params := wide } :=
  ⟨⟨counted_freqOk.nsym_le, counted_freqOk.nodup, counted_freqOk.mem_iff, counted_freqOk.total_eq,
    counted_freqOk.total_le⟩, by decide, by decide, by decide, by decide, by decide, by decide⟩

/-- The container of "ab" with other padding bits. -/
theorem witness_DecompDecodesContainer :
    (fun (s : State) (entries : List (Byte × Bits)) (padding : Bits) => s.status.err = false ∧ s.status.phase = .count ∧
      s.status.empty = false ∧ 1 ≤ s.ilen ∧ (s.memRead 0).toNat = padding.length ∧ padding.length < 8 ∧
      abTree.size ≤ 511 ∧ (abTree.isLeaf = true → entries = []) ∧ (∀ e ∈ entries, e ∈ abTree.paths []) ∧
      s.inBits 8 (8 * s.ilen - 8) = abTree.ser ++ entries.flatMap Prod.snd ++ padding ∧
      entries.length ≤ s.params.obufCap)
      (load [0x03, 0x98, 0x4C, 0x4D]) [(0x61, [false]), (0x62, [true])] [true, false, true] := by decide +kernel

theorem witness_RoundTrip :
    (fun text : List Byte => 0x61#8 ∈ text ∧ 0x62#8 ∈ text ∧ 0x61#8 ≠ 0x62#8 ∧ text.length ≤ wide.countMax ∧
      text.length ≤ wide.obufCap ∧ 1 + (2559 + 255 * text.length + 7) / 8 ≤ wide.obufCap) [0x61, 0x62] := by decide

theorem witness_SingleSymbolTextIsLost : 1 ≤ 4 ∧ 4 ≤ p.countMax ∧ 3 ≤ { p with obufCap := 3 }.obufCap := by decide

theorem witness_ResetMeetsInvariant : p.Valid := p_valid

theorem witness_StepKeepsInvariant : sertWaiting.Inv ∧ ∃ t, step sertWaiting = .next t ∧ (t.olen == 3) = true :=
  ⟨sertWaiting_inv, exists_next_of_endsWith (by decide +kernel)⟩

theorem witness_StepKeepsCanonicalMemory :
    Memory.wf sertWaiting.ibuf ∧ Memory.wf sertWaiting.obuf ∧ ∃ t, step sertWaiting = .next t ∧ (t.olen == 3) = true :=
  ⟨by decide, by decide, exists_next_of_endsWith (by decide +kernel)⟩

theorem witness_CommandsAlwaysComplete : sertWaiting.Inv ∧ sertWaiting.status.busy = true := ⟨sertWaiting_inv, rfl⟩

end Sys2Proof.Tests
end

/-!
PROOFS of the scope obligations: a step runs the waiting command (R13, R225), the reset state meets the invariant (R49), and no step
changes the parameters or breaks the canonical form of a memory (R7, R47).
-/

namespace Sys2Proof.Machine

/-! ## What keeps the parameters and the canonical form of the memories -/

/-- From `s` to `t` the parameters are the same and each memory stays in its canonical form. -/
structure State.KeepsMem (s t : State) : Prop where
  params : t.params = s.params
  ibuf_wf : Memory.wf s.ibuf → Memory.wf t.ibuf
  obuf_wf : Memory.wf s.obuf → Memory.wf t.obuf

theorem State.KeepsMem.refl (s : State) : s.KeepsMem s := ⟨rfl, id, id⟩

theorem State.KeepsMem.trans {s t u : State} (h : s.KeepsMem t) (h' : t.KeepsMem u) : s.KeepsMem u :=
  ⟨h'.params.trans h.params, h'.ibuf_wf ∘ h.ibuf_wf, h'.obuf_wf ∘ h.obuf_wf⟩

theorem State.raise_keepsMem (s : State) (k : Cause) (n : Nat) : s.KeepsMem (s.raise k n) := ⟨rfl, id, id⟩

theorem State.withLeaves_keepsMem (s : State) : s.KeepsMem s.withLeaves := by
  have hleaves (l : List Nat) (u : State) : u.KeepsMem (l.foldl State.setLeaf u) := by
    induction l generalizing u with
    | nil => exact .refl u
    | cons i l ih =>
      have hset : u.KeepsMem (u.setLeaf i) := ⟨rfl, id, id⟩
      exact hset.trans (ih (u.setLeaf i))
  obtain ⟨hp, hi, ho⟩ := hleaves (List.range s.nsym) s
  exact ⟨hp, hi, ho⟩

/-- Wherever the pseudocode ends, at its last line or at a `raise`, it has kept the parameters and the memories' form of `s`. -/
def Res.KeepsMem {α : Type} (r : Res α) (s : State) : Prop := ∀ t, r.EndsIn t → s.KeepsMem t

@[simp] theorem Res.keepsMem_ok {α : Type} {a : α} {s t : State} : (Res.ok a t).KeepsMem s ↔ s.KeepsMem t := by
  simp [Res.KeepsMem]

@[simp] theorem Res.keepsMem_raised {α : Type} {k : Cause} {n : Nat} {s t : State} :
    (Res.raised k n t : Res α).KeepsMem s ↔ s.KeepsMem t := by
  simp [Res.KeepsMem]

@[simp] theorem Res.keepsMem_stuck {α : Type} {g : Fault} {s : State} : (Res.stuck g : Res α).KeepsMem s := by
  simp [Res.KeepsMem]

/-- What runs from a later state keeps the memories of an earlier one. -/
theorem Res.KeepsMem.after {α : Type} {r : Res α} {s u : State} (hr : r.KeepsMem u) (h : s.KeepsMem u) : r.KeepsMem s :=
  fun t ht => h.trans (hr t ht)

theorem Res.KeepsMem.bind {α β : Type} {r : Res α} {f : α → State → Res β} {s : State} (hr : r.KeepsMem s)
    (hf : ∀ a u, (f a u).KeepsMem u) : (r.bind f).KeepsMem s := by
  intro t ht
  rcases Res.endsIn_bind ht with ht | ⟨a, u, hu, ht⟩
  · exact hr t ht
  · exact (hr u (hu ▸ .ok a u)).trans (hf a u t ht)

/-! ## The pseudocode -/

theorem putBit_keepsMem (b : Bool) (s : State) : (putBit b s).KeepsMem s := by
  rcases putBit_cases b s with ⟨_, hp⟩ | ⟨_, _, hp⟩ | ⟨_, _, hp⟩ <;> rw [hp]
  · exact Res.keepsMem_ok.2 ⟨rfl, id, id⟩
  · exact Res.keepsMem_ok.2 ⟨rfl, id, Memory.write_wf _ _⟩
  · exact Res.keepsMem_raised.2 ⟨rfl, id, id⟩

theorem putBits_keepsMem (bs : Bits) (s : State) : (putBits bs s).KeepsMem s := by
  induction bs generalizing s with
  | nil => exact Res.keepsMem_ok.2 (.refl s)
  | cons b bs ih => exact (putBit_keepsMem b s).bind fun _ u => ih u

theorem putByte_keepsMem (v : Byte) (s : State) : (putByte v s).KeepsMem s := by
  rcases putByte_cases v s with ⟨_, hp⟩ | ⟨_, hp⟩ <;> rw [hp]
  · exact Res.keepsMem_ok.2 ⟨rfl, id, Memory.write_wf _ _⟩
  · exact Res.keepsMem_raised.2 (.refl s)

theorem addText_keepsMem (text : List Byte) (s : State) : (addText text s).KeepsMem s := by
  intro t ht
  rw [addText_frame text ht]
  exact ⟨rfl, id, id⟩

theorem addSym_keepsMem (sym : Byte) (s : State) : (addSym sym s).KeepsMem s := by
  rcases addSym_cases sym s with ⟨_, hp⟩ | ⟨_, _, _, hp⟩ | ⟨_, _, _, hp⟩ | ⟨_, _, hp⟩ <;> rw [hp]
  · exact Res.keepsMem_raised.2 (.refl s)
  · exact Res.keepsMem_stuck
  · exact Res.keepsMem_ok.2 ⟨rfl, id, id⟩
  · exact Res.keepsMem_ok.2 ⟨rfl, id, id⟩

theorem mergeAll_keepsMem (fuel : Nat) (l : List Nat) (s : State) : (mergeAll fuel l s).KeepsMem s := by
  rcases mergeAll_frame fuel l (s := s) with ⟨root, t, hr, ht⟩ | hr <;> rw [hr]
  · rw [Res.keepsMem_ok, ht]
    exact ⟨rfl, id, id⟩
  · exact Res.keepsMem_stuck

theorem deriveCodes_keepsMem (s : State) : (deriveCodes s).KeepsMem s := by
  rcases deriveCodes_cases s with ⟨_, _, hr⟩ | ⟨_, hr⟩ <;> rw [hr]
  · exact Res.keepsMem_ok.2 ⟨rfl, id, id⟩
  · exact Res.keepsMem_stuck

theorem treeReady_keepsMem (p : Phase) (s : State) : (Res.ok () (s.treeReady p)).KeepsMem s :=
  Res.keepsMem_ok.2 ⟨rfl, id, id⟩

theorem buildBody_keepsMem (s : State) : (buildBody s).KeepsMem s := by
  rw [buildBody]
  split
  · exact Res.keepsMem_ok.2 ⟨rfl, id, id⟩
  · split
    · exact Res.keepsMem_stuck
    · refine ((mergeAll_keepsMem _ _ _).after s.withLeaves_keepsMem).bind fun root u => ?_
      have hroot : u.KeepsMem { u with root := root } := ⟨rfl, id, id⟩
      exact ((deriveCodes_keepsMem _).after hroot).bind fun _ v => treeReady_keepsMem .built v

theorem cwlkBody_keepsMem (sym : Byte) (s : State) : (cwlkBody sym s).KeepsMem s := by
  rw [cwlkBody]
  split
  · exact Res.keepsMem_ok.2 ⟨rfl, id, id⟩
  · exact Res.keepsMem_raised.2 (.refl s)

theorem sertBody_keepsMem (s : State) : (sertBody s).KeepsMem s := by
  rw [sertBody.eq_def]
  split
  · have hopen : s.KeepsMem s.streamOpened := ⟨rfl, id, Memory.write_wf _ _⟩
    exact ((putBits_keepsMem _ _).after hopen).bind fun _ u => Res.keepsMem_ok.2 ⟨rfl, id, id⟩
  · exact Res.keepsMem_stuck

theorem encodeSymbol_keepsMem (sym : Byte) (s : State) : (encodeSymbol sym s).KeepsMem s := by
  rcases encodeSymbol_cases sym s with ⟨_, hp⟩ | ⟨_, hp⟩ <;> rw [hp]
  · exact putBits_keepsMem _ s
  · exact Res.keepsMem_raised.2 (.refl s)

theorem encodeText_keepsMem (text : List Byte) (s : State) : (encodeText text s).KeepsMem s := by
  induction text generalizing s with
  | nil => exact Res.keepsMem_ok.2 (.refl s)
  | cons sym text ih => exact (encodeSymbol_keepsMem sym s).bind fun _ u => ih u

theorem flushPartial_keepsMem (s : State) : (flushPartial s).KeepsMem s := by
  rw [flushPartial]
  split
  · exact Res.keepsMem_ok.2 (.refl s)
  · split
    · exact Res.keepsMem_raised.2 (.refl s)
    · exact Res.keepsMem_ok.2 ⟨rfl, id, Memory.write_wf _ _⟩

theorem finBody_keepsMem (s : State) : (finBody s).KeepsMem s :=
  (flushPartial_keepsMem s).bind fun _ _ => Res.keepsMem_ok.2 ⟨rfl, id, Memory.write_wf _ _⟩

theorem loadHeader_keepsMem (v : Byte) (s : State) : (loadHeader v s).KeepsMem s := by
  rw [loadHeader]
  split
  · exact Res.keepsMem_raised.2 (.refl s)
  · exact Res.keepsMem_ok.2 ⟨rfl, id, id⟩

theorem ldhdrBody_keepsMem (s : State) : (ldhdrBody s).KeepsMem s := by
  rw [ldhdrBody]
  split
  · exact Res.keepsMem_ok.2 ⟨rfl, id, id⟩
  · exact loadHeader_keepsMem _ s

theorem takeNode_keepsMem (b : Nat) (s : State) : (takeNode b s).KeepsMem s := by
  rcases takeNode_cases b s with ⟨_, hp⟩ | ⟨_, _, hp⟩ | ⟨_, _, hp⟩ <;> rw [hp]
  · exact Res.keepsMem_raised.2 (.refl s)
  · exact Res.keepsMem_raised.2 (.refl s)
  · exact Res.keepsMem_ok.2 ⟨rfl, id, id⟩

theorem des_keepsMem (fuel b : Nat) (s : State) : (des fuel b s).KeepsMem s := by
  intro t ht
  rw [des_frame fuel b ht]
  exact ⟨rfl, id, id⟩

theorem finishTree_keepsMem (root cur : Nat) (s : State) : (finishTree root cur s).KeepsMem s := by
  rw [finishTree]
  split
  · exact Res.keepsMem_raised.2 (.refl s)
  · refine Res.KeepsMem.bind ?_ fun _ u => treeReady_keepsMem .payload u
    exact (deriveCodes_keepsMem _).after ⟨rfl, id, id⟩

theorem deserBody_keepsMem (s : State) : (deserBody s).KeepsMem s := by
  have hempty : s.KeepsMem { s with nnode := 0 } := ⟨rfl, id, id⟩
  exact ((des_keepsMem _ _ _).after hempty).bind fun r u => finishTree_keepsMem r.1 r.2 u

theorem walk1_keepsMem (c0 : Nat) (s : State) : (walk1 c0 s).KeepsMem s := by
  intro t ht
  rw [walkFrom_frame _ _ _ _ ht]
  exact .refl s

theorem dec1Body_keepsMem (s : State) : (dec1Body s).KeepsMem s :=
  (walk1_keepsMem s.icur s).bind fun _ _ => Res.keepsMem_ok.2 ⟨rfl, id, id⟩

theorem decodeAll_keepsMem (fuel : Nat) (s : State) : (decodeAll fuel s).KeepsMem s := by
  induction fuel generalizing s with
  | zero => exact Res.keepsMem_ok.2 (.refl s)
  | succ fuel ih =>
    rw [decodeAll]
    split
    · refine (walk1_keepsMem s.icur s).bind fun r u => (putByte_keepsMem r.1 u).bind fun _ v => ?_
      exact (ih _).after ⟨rfl, id, id⟩
    · exact Res.keepsMem_ok.2 (.refl s)

theorem decallBody_keepsMem (s : State) : (decallBody s).KeepsMem s := by
  rw [decallBody]
  split
  · exact Res.keepsMem_stuck
  · split
    · exact Res.keepsMem_raised.2 (.refl s)
    · exact decodeAll_keepsMem _ s

theorem compBody_keepsMem (s : State) : (compBody s).KeepsMem s := by
  refine (addText_keepsMem _ s).bind fun _ u => (buildBody_keepsMem u).bind fun _ v => ?_
  split
  · exact Res.keepsMem_ok.2 (.refl v)
  · exact (sertBody_keepsMem v).bind fun _ w => (encodeText_keepsMem _ w).bind fun _ x => finBody_keepsMem x

theorem decompBody_keepsMem (s : State) : (decompBody s).KeepsMem s := by
  refine (ldhdrBody_keepsMem s).bind fun _ u => ?_
  split
  · exact Res.keepsMem_ok.2 (.refl u)
  · exact (deserBody_keepsMem u).bind fun _ v => decallBody_keepsMem v

theorem commandBody_keepsMem (i : Instr) (s : State) : (commandBody i s).KeepsMem s := by
  cases i with
  | fadd sym => exact addSym_keepsMem sym s
  | faddt => exact addText_keepsMem _ s
  | fcnt sym => exact Res.keepsMem_ok.2 ⟨rfl, id, id⟩
  | build => exact buildBody_keepsMem s
  | cwlk sym => exact cwlkBody_keepsMem sym s
  | sert => exact sertBody_keepsMem s
  | enc sym => exact encodeSymbol_keepsMem sym s
  | enct => exact encodeText_keepsMem _ s
  | fin => exact finBody_keepsMem s
  | ldhdr => exact ldhdrBody_keepsMem s
  | deser => exact deserBody_keepsMem s
  | dec1 => exact dec1Body_keepsMem s
  | decall => exact decallBody_keepsMem s
  | rewind => exact Res.keepsMem_ok.2 ⟨rfl, id, id⟩
  | comp => exact compBody_keepsMem s
  | decomp => exact decompBody_keepsMem s
  | nop | clr | hdr v | leaf sym | internal | pbit b | padbit => exact Res.keepsMem_ok.2 (.refl s)

/-! ## Instructions -/

theorem Res.outcome_keepsMem {r : Res Unit} {s t : State} (hr : r.KeepsMem s) (h : r.outcome = .next t) :
    s.KeepsMem t := by
  rcases Res.outcome_eq_next h with ⟨a, rfl⟩ | ⟨k, n, u, rfl, rfl⟩
  · exact Res.keepsMem_ok.1 hr
  · exact (Res.keepsMem_raised.1 hr).trans (u.raise_keepsMem k n)

theorem Res.recordOutcome_keepsMem {r : Res Unit} {s t : State} (hr : r.KeepsMem s) (h : r.recordOutcome = .next t) :
    s.KeepsMem t := by
  rcases recordOutcome_eq_next h with rfl | ⟨k, n, u, rfl, rfl⟩
  · exact Res.keepsMem_ok.1 hr
  · have hleave : u.KeepsMem (u.leaveRecord.raise k n) := ⟨rfl, id, id⟩
    exact (Res.keepsMem_raised.1 hr).trans hleave

theorem runCommand_keepsMem {i : Instr} {body : State → Res Unit} {s t : State} (hb : (body s).KeepsMem s)
    (h : runCommand i body s = .next t) : s.KeepsMem t := by
  rcases runCommand_cases h with ⟨_, rfl⟩ | ⟨_, _, rfl⟩ | ⟨he, hp, _⟩ | ⟨he, hp, _⟩
  · exact .refl t
  · exact s.raise_keepsMem _ _
  · exact Res.outcome_keepsMem hb (runCommand_runs he hp ▸ h)
  · exact Res.outcome_keepsMem hb (runCommand_runs he hp ▸ h)

theorem execHdr_keepsMem {v : Byte} {s t : State} (h : execHdr v s = .next t) : s.KeepsMem t := by
  rw [execHdr] at h
  split at h
  · cases h; exact .refl s
  · split at h
    · have hleave : s.KeepsMem s.leaveRecord := ⟨rfl, id, id⟩
      exact Res.outcome_keepsMem ((loadHeader_keepsMem v _).after hleave) h
    · cases h

theorem closeSubtree_keepsMem (i cur : Nat) (frames : List Frame) (s : State) :
    s.KeepsMem (closeSubtree i cur frames s) := by
  rw [closeSubtree_frame]
  exact ⟨rfl, id, id⟩

theorem readLeaf_keepsMem (sym : Byte) (cur : Nat) (frames : List Frame) (s : State) :
    (readLeaf sym cur frames s).KeepsMem s := by
  refine (takeNode_keepsMem cur s).bind fun i u => ?_
  split
  · exact Res.keepsMem_raised.2 (.refl u)
  · have hleaf : u.KeepsMem (u.setNode i (Node.mkLeaf sym 0)) := ⟨rfl, id, id⟩
    exact Res.keepsMem_ok.2 (hleaf.trans (closeSubtree_keepsMem _ _ _ _))

theorem readInternal_keepsMem (cur : Nat) (frames : List Frame) (s : State) : (readInternal cur frames s).KeepsMem s :=
  (takeNode_keepsMem cur s).bind fun _ _ => Res.keepsMem_ok.2 ⟨rfl, id, id⟩

theorem readPayloadBit_keepsMem (b : Bool) (start cur i : Nat) (s : State) :
    (readPayloadBit b start cur i s).KeepsMem s := by
  rw [readPayloadBit]
  split
  · exact Res.keepsMem_raised.2 (.refl s)
  · exact Res.keepsMem_ok.2 ⟨rfl, id, id⟩

theorem execLeaf_keepsMem {sym : Byte} {s t : State} (h : execLeaf sym s = .next t) : s.KeepsMem t := by
  rw [execLeaf.eq_def] at h
  split at h
  · cases h; exact .refl s
  · split at h
    · exact Res.recordOutcome_keepsMem (readLeaf_keepsMem _ _ _ s) h
    all_goals cases h

theorem execInternal_keepsMem {s t : State} (h : execInternal s = .next t) : s.KeepsMem t := by
  rw [execInternal.eq_def] at h
  split at h
  · cases h; exact .refl s
  · split at h
    · exact Res.recordOutcome_keepsMem (readInternal_keepsMem _ _ s) h
    all_goals cases h

theorem execPbit_keepsMem {b : Bool} {s t : State} (h : execPbit b s = .next t) : s.KeepsMem t := by
  rw [execPbit.eq_def] at h
  split at h
  · cases h; exact .refl s
  · split at h
    · split at h
      · cases h
      · split at h
        · cases h
        · exact Res.recordOutcome_keepsMem (readPayloadBit_keepsMem _ _ _ _ s) h
    all_goals cases h

theorem exec_keepsMem {i : Instr} {s t : State} (h : exec i s = .next t) : s.KeepsMem t := by
  by_cases hplace : i.place = .command
  · by_cases hclr : i = .clr
    · subst hclr
      cases h
      exact ⟨rfl, id, id⟩
    · rw [exec_command hplace hclr] at h
      exact runCommand_keepsMem (commandBody_keepsMem i s) h
  · cases i with
    | hdr v => exact execHdr_keepsMem h
    | leaf sym => exact execLeaf_keepsMem h
    | internal => exact execInternal_keepsMem h
    | pbit b => exact execPbit_keepsMem h
    | padbit => cases h; exact .refl s
    | _ => exact absurd rfl hplace

/-! ## Steps -/

theorem noRecord_keepsMem {b : Nat} {s t : State} (h : noRecord s b = .next t) : s.KeepsMem t := by
  rw [noRecord.eq_def] at h
  split at h
  · exact execHdr_keepsMem h
  · exact Res.recordOutcome_keepsMem
      ((takeNode_keepsMem b s).bind fun _ u => Res.keepsMem_raised.2 (.refl u)) h
  · split at h
    · cases h
    · cases h; exact ⟨rfl, id, id⟩
  all_goals cases h

theorem recordStep_keepsMem {p : Place} {b : Nat} {s t : State} (h : recordStep p b s = .next t) : s.KeepsMem t := by
  rw [recordStep.eq_def] at h
  split at h
  · exact exec_keepsMem h
  · exact noRecord_keepsMem h

theorem onCmdWrite_keepsMem {w : CmdWord} {s t : State} (h : onCmdWrite w s = .next t) : s.KeepsMem t := by
  rcases onCmdWrite_cases w s with ⟨i, _, _, hw⟩ | ⟨_, hw⟩ <;> rw [hw] at h
  · exact exec_keepsMem h
  · cases h
    rw [illegalCommand]
    split
    · exact .refl s
    · exact s.raise_keepsMem _ _

theorem afterReset_keepsMem (s : State) : s.KeepsMem s.afterReset := ⟨rfl, fun _ => .nil, fun _ => .nil⟩

theorem hostMove_keepsMem {m : HostMove} {s t : State} (h : hostMove m s = .next t) : s.KeepsMem t := by
  rcases hostMove_cases h with ⟨number, value, rfl⟩ | rfl | ⟨a, v, _, _, rfl⟩ | ⟨v, rfl⟩ | ⟨_, rfl⟩
  · rcases writeReg_frame s number value with hw | hw | ⟨_, _, hw⟩ <;> rw [hw] <;> exact ⟨rfl, id, id⟩
  · exact .refl t
  · exact ⟨rfl, Memory.write_wf a v, id⟩
  · exact ⟨rfl, id, id⟩
  · exact afterReset_keepsMem s

theorem hostStep_keepsMem {s t : State} (h : hostStep s = .next t) : s.KeepsMem t := by
  rcases hostStep_cases h with ⟨_, rfl⟩ | ⟨m, rest, _, hm⟩
  · exact .refl t
  · obtain ⟨hparams, hibuf, hobuf⟩ := hostMove_keepsMem hm
    exact ⟨hparams, hibuf, hobuf⟩

theorem step_keepsMem {s t : State} (h : step s = .next t) : s.KeepsMem t := by
  rcases step_cases h with ⟨rest, _, rfl⟩ | ⟨_, _, u, hu, rfl⟩ | ⟨_, _, p, b, _, hr⟩ | ⟨_, _, _, hh⟩
  · have hmove : s.KeepsMem { s with hostMoves := rest } := ⟨rfl, id, id⟩
    exact hmove.trans (afterReset_keepsMem _)
  · have hend : u.KeepsMem u.endCommand := ⟨rfl, id, id⟩
    exact (onCmdWrite_keepsMem hu).trans hend
  · exact recordStep_keepsMem hr
  · exact hostStep_keepsMem hh

/-- Settles O59: keeping the parameters and the memories' form is a preorder on states, and every kind of step keeps them. -/
theorem stepKeepsCanonicalMemory : Obligations.StepKeepsCanonicalMemory := by
  unfold Obligations.StepKeepsCanonicalMemory
  intro s t hibuf hobuf h
  have hkeeps := step_keepsMem h
  exact ⟨hkeeps.params, hkeeps.ibuf_wf hibuf, hkeeps.obuf_wf hobuf⟩

/-! ## The waiting command -/

/-- A word that decodes runs its command (R225). -/
theorem onCmdWrite_of_decode {w : CmdWord} {i : Instr} (h : decodeCommand w = some i) (s : State) :
    onCmdWrite w s = exec i s := by
  simp [onCmdWrite, h]

/-- With BUSY set and no reset next, a step is the waiting command. -/
theorem step_of_busy {s : State} (hr : s.resetNext = false) (hb : s.status.busy = true) : step s = commandStep s := by
  simp [step, hr, hb]

/-- Settles O5: the step is the waiting command's, and `endCommand` clears CMD and BUSY. -/
theorem stepRunsCommand : Obligations.StepRunsCommand := by
  unfold Obligations.StepRunsCommand
  intro s i hr hb hd
  rw [step_of_busy hr hb, commandStep, onCmdWrite_of_decode hd]
  rfl

/-! ## The reset state -/

theorem State.initial_orderList (p : Params) : (State.initial p).orderList = [] := rfl

theorem State.initial_freqOf (p : Params) (sym : Byte) : (State.initial p).freqOf sym = 0 := by
  simp [State.freqOf, State.initial]

theorem State.initial_freqOk (p : Params) : (State.initial p).FreqOk where
  nsym_le := Nat.zero_le _
  nodup := List.nodup_nil
  mem_iff sym := by simp [State.initial_orderList, State.initial_freqOf]
  total_eq := by simp only [State.initial, Vector.toList_replicate, List.sum_replicate, smul_zero]
  total_le := Nat.zero_le _

theorem State.initial_memOk (p : Params) : (State.initial p).MemOk where
  ibuf_wf := .nil
  obuf_wf := .nil
  ibuf_in _ h := nomatch h
  obuf_in _ h := nomatch h
  ilen_le := Nat.zero_le _
  olen_le := Nat.zero_le _
  written _ h := absurd h (Nat.not_lt_zero _)

theorem State.initial_statusOk (p : Params) : (State.initial p).StatusOk where
  flags := ⟨rfl, rfl, rfl⟩
  cause_iff := iff_of_true rfl rfl
  einfo_zero _ := rfl
  cmd_zero _ := rfl
  reader_idle := rfl

theorem State.initial_treeOk (p : Params) : (State.initial p).TreeOk where
  nnode_le := Nat.zero_le _
  tree h := nomatch h
  noTree _ := ⟨rfl, rfl⟩

theorem State.initial_accLowZero (p : Params) : (State.initial p).AccLowZero :=
  show ∀ b ∈ (bits8 0).drop 0, b = false by decide

theorem State.initial_rangeOk (p : Params) : (State.initial p).RangeOk where
  einfo_lt := Nat.two_pow_pos _
  rcount_le := Nat.zero_le _
  rlen_le := Nat.zero_le _
  rcode_len := rfl

/-- Settles O57, part by part: at reset every register and file entry is zero, so only the parameters' part needs its premise. -/
theorem resetMeetsInvariant : Obligations.ResetMeetsInvariant := by
  unfold Obligations.ResetMeetsInvariant
  exact fun p hp => {
    params := hp
    freq := State.initial_freqOk p
    mem := State.initial_memOk p
    status := State.initial_statusOk p
    tree := State.initial_treeOk p
    cursor := ⟨rfl, rfl, rfl⟩
    acc := fun _ => ⟨State.initial_accLowZero p, fun _ => ⟨rfl, rfl⟩⟩
    range := State.initial_rangeOk p }

end Sys2Proof.Machine

/-!
PROOFS of the state obligations, part 1: what each command can change (its frame), and the frequency table, whose invariant every
step keeps and whose entries no step but CLR and reset lowers (R39).
-/

namespace Sys2Proof.Machine

/-! ## The frames of the commands -/

theorem Res.EndsIn.of_ok {α : Type} {r : Res α} {a : α} {t : State} (h : r = .ok a t) : r.EndsIn t := h ▸ .ok a t

theorem setLeaves_frame (ranks : List Nat) (s : State) :
    ranks.foldl State.setLeaf s = { s with nodes := (ranks.foldl State.setLeaf s).nodes } := by
  induction ranks generalizing s with
  | nil => rfl
  | cons i ranks ih => exact ih (s.setLeaf i)

theorem withLeaves_frame (s : State) :
    s.withLeaves = { s with nodes := s.withLeaves.nodes, nnode := s.withLeaves.nnode } := by
  rw [State.withLeaves, setLeaves_frame]

theorem Res.EndsIn.of_raised {α : Type} {r : Res α} {k : Cause} {n : Nat} {t : State} (h : r = .raised k n t) :
    r.EndsIn t := h ▸ .raised k n t

/-- BUILD writes the node store, the code table, STATUS and, with nothing to build, OLEN. -/
theorem buildBody_frame {s t : State} (h : (buildBody s).EndsIn t) :
    t = { s with nodes := t.nodes, nnode := t.nnode, root := t.root, code := t.code, olen := t.olen, status := t.status } := by
  rw [buildBody] at h
  split at h
  · rw [Res.endsIn_ok.1 h]; rfl
  · split at h
    · cases h
    · rcases mergeAll_frame s.nsym (stableSort s.withLeaves.nodeCount (List.range s.nsym)) (s := s.withLeaves) with
        ⟨root, u, hm, hu⟩ | hm <;> rw [hm] at h
      · rw [withLeaves_frame] at hu
        rw [Res.bind_ok] at h
        rcases deriveCodes_cases { u with root := root } with ⟨tree, _, hd⟩ | ⟨_, hd⟩ <;> rw [hd] at h
        · rw [Res.bind_ok, Res.endsIn_ok] at h
          rw [h, hu]; rfl
        · cases h
      · cases h

theorem cwlkBody_frame {sym : Byte} {s t : State} (h : (cwlkBody sym s).EndsIn t) :
    t = { s with rlen := t.rlen, rcode := t.rcode } := by
  rw [cwlkBody] at h
  split at h
  · rw [Res.endsIn_ok.1 h]
  · rw [Res.endsIn_raised.1 h]

theorem sertBody_frame {s t : State} (h : (sertBody s).EndsIn t) :
    t = { s with obuf := t.obuf, olen := t.olen, acc := t.acc, accn := t.accn, status := t.status } := by
  rw [sertBody.eq_def] at h
  split at h
  · rcases Res.endsIn_bind h with h | ⟨_, u, hu, h⟩
    · rw [putBits_frame _ h]; rfl
    · rw [Res.endsIn_ok.1 h, putBits_frame _ (.of_ok hu)]; rfl
  · cases h

theorem encodeSymbol_frame (sym : Byte) {s t : State} (h : (encodeSymbol sym s).EndsIn t) :
    t = { s with obuf := t.obuf, olen := t.olen, acc := t.acc, accn := t.accn } := by
  rcases encodeSymbol_cases sym s with ⟨_, hp⟩ | ⟨_, hp⟩ <;> rw [hp] at h
  · exact putBits_frame _ h
  · rw [Res.endsIn_raised.1 h]

theorem finBody_frame {s t : State} (h : (finBody s).EndsIn t) :
    t = { s with obuf := t.obuf, olen := t.olen, acc := t.acc, accn := t.accn, pad := t.pad, status := t.status } := by
  rw [finBody, flushPartial] at h
  split at h
  · rw [Res.bind_ok, Res.endsIn_ok] at h
    rw [h]; rfl
  · split at h
    · rw [Res.bind_raised, Res.endsIn_raised] at h
      rw [h]
    · rw [Res.bind_ok, Res.endsIn_ok] at h
      rw [h]; rfl

theorem loadHeader_frame {v : Byte} {s t : State} (h : (loadHeader v s).EndsIn t) :
    t = { s with pad := t.pad, icur := t.icur, status := t.status } := by
  rw [loadHeader] at h
  split at h
  · rw [Res.endsIn_raised.1 h]
  · rw [Res.endsIn_ok.1 h]; rfl

theorem ldhdrBody_frame {s t : State} (h : (ldhdrBody s).EndsIn t) :
    t = { s with pad := t.pad, icur := t.icur, olen := t.olen, status := t.status } := by
  rw [ldhdrBody] at h
  split at h
  · rw [Res.endsIn_ok.1 h]; rfl
  · rw [loadHeader_frame h]

theorem finishTree_frame {root cur : Nat} {s t : State} (h : (finishTree root cur s).EndsIn t) :
    t = { s with
      root := t.root, icur := t.icur, pstart := t.pstart, pend := t.pend, olen := t.olen, code := t.code,
      status := t.status } := by
  rw [finishTree] at h
  split at h
  · rw [Res.endsIn_raised.1 h]
  · rcases deriveCodes_cases { s with
        root := root, icur := cur, pstart := cur, pend := 8 * s.ilen - s.pad.toNat, olen := 0 } with
      ⟨tree, _, hd⟩ | ⟨_, hd⟩ <;> rw [hd] at h
    · rw [Res.endsIn_ok.1 h]; rfl
    · cases h

theorem deserBody_frame {s t : State} (h : (deserBody s).EndsIn t) :
    t = { s with
      nodes := t.nodes, nnode := t.nnode, root := t.root, icur := t.icur, pstart := t.pstart, pend := t.pend,
      olen := t.olen, code := t.code, status := t.status } := by
  rw [deserBody] at h
  rcases Res.endsIn_bind h with h | ⟨r, u, hu, h⟩
  · rw [des_frame _ _ h]
  · rw [finishTree_frame h, des_frame _ _ (.of_ok hu)]

theorem dec1Body_frame {s t : State} (h : (dec1Body s).EndsIn t) : t = { s with rsym := t.rsym, icur := t.icur } := by
  rw [dec1Body] at h
  rcases Res.endsIn_bind h with h | ⟨r, u, hu, h⟩
  · rw [walkFrom_frame _ _ _ _ h]
  · rw [Res.endsIn_ok.1 h, walkFrom_frame _ _ _ _ (.of_ok hu)]

theorem decallBody_frame {s t : State} (h : (decallBody s).EndsIn t) :
    t = { s with obuf := t.obuf, olen := t.olen, icur := t.icur } := by
  rw [decallBody] at h
  split at h
  · cases h
  · split at h
    · rw [Res.endsIn_raised.1 h]
    · exact decodeAll_frame _ h

/-! ## What a step does to the frequency table -/

/-- The registers and files that the frequency table's invariant speaks of (R39, R133). -/
def State.table (s : State) : Params × Vector Nat 256 × Vector Byte 256 × Nat × Nat :=
  (s.params, s.freq, s.order, s.nsym, s.total)

/-- From `s` to `t` the frequency table only grows (R39 (d)), and its invariant is kept (R39 (a) to (c)). -/
structure State.TableGrows (s t : State) : Prop where
  freq_le : ∀ sym, s.freqOf sym ≤ t.freqOf sym
  nsym_le : s.nsym ≤ t.nsym
  total_le : s.total ≤ t.total
  order_prefix : s.orderList <+: t.orderList
  freqOk : s.FreqOk → t.FreqOk

theorem State.TableGrows.refl (s : State) : s.TableGrows s :=
  ⟨fun _ => le_rfl, le_rfl, le_rfl, List.prefix_rfl, id⟩

theorem State.TableGrows.trans {s t u : State} (h : s.TableGrows t) (h' : t.TableGrows u) : s.TableGrows u where
  freq_le sym := (h.freq_le sym).trans (h'.freq_le sym)
  nsym_le := h.nsym_le.trans h'.nsym_le
  total_le := h.total_le.trans h'.total_le
  order_prefix := h.order_prefix.trans h'.order_prefix
  freqOk := h'.freqOk ∘ h.freqOk

/-- A step that leaves the table as it is. -/
theorem State.TableGrows.of_table_eq {s t : State} (h : t.table = s.table) : s.TableGrows t := by
  obtain ⟨hparams, hfreq, horder, hnsym, htotal⟩ := by simpa [State.table] using h
  have hf (sym : Byte) : t.freqOf sym = s.freqOf sym := by rw [State.freqOf, State.freqOf, hfreq]
  have ho : t.orderList = s.orderList := by
    unfold State.orderList State.orderAt
    rw [horder, hnsym]
  refine ⟨fun sym => (hf sym).ge, hnsym.ge, htotal.ge, ho ▸ List.prefix_rfl, fun hs => ?_⟩
  exact {
    nsym_le := hnsym ▸ hs.nsym_le
    nodup := ho ▸ hs.nodup
    mem_iff := fun sym => by rw [ho, hf]; exact hs.mem_iff sym
    total_eq := by rw [htotal, hfreq]; exact hs.total_eq
    total_le := by rw [htotal, hparams]; exact hs.total_le }

/-! ### `AddSym` -/

/-- Replacing one entry of a file changes its sum by the difference. -/
theorem sum_toList_set (v : Vector Nat 256) (i n : Nat) (hi : i < 256) :
    (v.set i (v[i] + n)).toList.sum = v.toList.sum + n := by
  have hi' : i < v.toList.length := by simpa using hi
  have hsplit : v.toList.sum = (v.toList.take i).sum + (v[i] + (v.toList.drop (i + 1)).sum) := by
    rw [← List.sum_take_add_sum_drop v.toList i, List.drop_eq_getElem_cons hi', List.sum_cons, Vector.getElem_toList]
  rw [Vector.toList_set, List.sum_set, if_pos hi', hsplit]
  omega

/-- A new symbol goes to the end of ORDER; the ranks below NSYM keep theirs. -/
theorem orderList_append {s t : State} {sym : Byte} (hn : s.nsym < 256)
    (ho : t.order = s.order.setIfInBounds s.nsym sym) (hs : t.nsym = s.nsym + 1) :
    t.orderList = s.orderList ++ [sym] := by
  have hlow (i : Nat) (hi : i < s.nsym) : t.orderAt i = s.orderAt i := by
    rw [State.orderAt, State.orderAt, ho, Vector.getElem?_setIfInBounds_ne (by omega)]
  have hlast : t.orderAt s.nsym = sym := by
    rw [State.orderAt, ho, Vector.getElem?_setIfInBounds_self_of_lt hn]; rfl
  rw [State.orderList, hs, List.range_succ, List.map_append, List.map_singleton, hlast]
  congr 1
  exact List.map_congr_left fun i hi => hlow i (List.mem_range.1 hi)

theorem freqOf_of_set {s t : State} {sym : Byte} {n : Nat} (h : t.freq = s.freq.set sym.toNat n) (other : Byte) :
    t.freqOf other = if other = sym then n else s.freqOf other := by
  simp only [State.freqOf, h, Vector.getElem_set, BitVec.toNat_inj, eq_comm]

/-- What AddSym of a symbol of count 0 leaves. -/
def State.withNewSym (s : State) (sym : Byte) : State :=
  { s with
    order := s.order.setIfInBounds s.nsym sym, freq := s.freq.set sym.toNat 1, nsym := s.nsym + 1, total := s.total + 1 }

/-- What AddSym of a symbol seen before leaves. -/
def State.withOneMore (s : State) (sym : Byte) : State :=
  { s with freq := s.freq.set sym.toNat (s.freqOf sym + 1), total := s.total + 1 }

theorem withNewSym_tableGrows {s : State} {sym : Byte} (ht : s.total < s.params.countMax) (hf : s.freqOf sym = 0)
    (hn : s.nsym < 256) : s.TableGrows (s.withNewSym sym) := by
  have horder : (s.withNewSym sym).orderList = s.orderList ++ [sym] := orderList_append hn rfl rfl
  have hfreq (x : Byte) : (s.withNewSym sym).freqOf x = if x = sym then 1 else s.freqOf x := freqOf_of_set rfl x
  refine ⟨fun x => ?_, Nat.le_succ _, Nat.le_succ _, horder ▸ List.prefix_append _ _, fun hs => ?_⟩
  · rw [hfreq]; split
    · next hx => rw [hx, hf]; exact Nat.zero_le 1
    · exact le_rfl
  · have hnew : sym ∉ s.orderList := by rw [hs.mem_iff, hf]; decide
    refine ⟨hn, ?_, fun x => ?_, ?_, ht⟩
    · rw [horder, ← List.concat_eq_append]; exact hs.nodup.concat hnew
    · rw [horder, hfreq, List.mem_append, List.mem_singleton, hs.mem_iff]
      split
      · next hx => exact iff_of_true (.inr hx) le_rfl
      · next hx => exact or_iff_left hx
    · have hentry : s.freq[sym.toNat] + 1 = 1 := congrArg (· + 1) hf
      have hsum := sum_toList_set s.freq sym.toNat 1 sym.isLt
      rw [hentry] at hsum
      exact (congrArg (· + 1) hs.total_eq).trans hsum.symm

theorem withOneMore_tableGrows {s : State} {sym : Byte} (ht : s.total < s.params.countMax) (hf : s.freqOf sym ≠ 0) :
    s.TableGrows (s.withOneMore sym) := by
  have hfreq (x : Byte) : (s.withOneMore sym).freqOf x = if x = sym then s.freqOf sym + 1 else s.freqOf x :=
    freqOf_of_set rfl x
  refine ⟨fun x => ?_, le_rfl, Nat.le_succ _, List.prefix_rfl, fun hs => ?_⟩
  · rw [hfreq]; split
    · next hx => rw [hx]; exact Nat.le_succ _
    · exact le_rfl
  · refine ⟨hs.nsym_le, hs.nodup, fun x => ?_, ?_, ht⟩
    · rw [hfreq]
      refine (hs.mem_iff x).trans ?_
      split
      · next hx => subst hx; omega
      · rfl
    · exact (congrArg (· + 1) hs.total_eq).trans (sum_toList_set s.freq sym.toNat 1 sym.isLt).symm

theorem addSym_tableGrows {sym : Byte} {s t : State} (h : (addSym sym s).EndsIn t) : s.TableGrows t := by
  rcases addSym_cases sym s with ⟨_, hp⟩ | ⟨_, _, _, hp⟩ | ⟨ht, hf, hn, hp⟩ | ⟨ht, hf, hp⟩ <;> rw [hp] at h
  · rw [Res.endsIn_raised.1 h]; exact .refl s
  · cases h
  · rw [Res.endsIn_ok.1 h]; exact withNewSym_tableGrows ht hf hn
  · rw [Res.endsIn_ok.1 h]; exact withOneMore_tableGrows ht hf

theorem addText_tableGrows {text : List Byte} {s t : State} (h : (addText text s).EndsIn t) : s.TableGrows t := by
  induction text generalizing s with
  | nil => rw [Res.endsIn_ok.1 h]; exact .refl s
  | cons sym text ih =>
    rcases Res.endsIn_bind h with h | ⟨_, u, hu, h⟩
    · exact addSym_tableGrows h
    · exact (addSym_tableGrows (.of_ok hu)).trans (ih h)

/-! ### The commands and the records -/

theorem buildBody_table {s t : State} (h : (buildBody s).EndsIn t) : t.table = s.table := by
  rw [buildBody_frame h]; rfl

theorem sertBody_table {s t : State} (h : (sertBody s).EndsIn t) : t.table = s.table := by
  rw [sertBody_frame h]; rfl

theorem encodeText_table {text : List Byte} {s t : State} (h : (encodeText text s).EndsIn t) : t.table = s.table := by
  rw [encodeText_frame text h]; rfl

theorem finBody_table {s t : State} (h : (finBody s).EndsIn t) : t.table = s.table := by
  rw [finBody_frame h]; rfl

theorem ldhdrBody_table {s t : State} (h : (ldhdrBody s).EndsIn t) : t.table = s.table := by
  rw [ldhdrBody_frame h]; rfl

theorem deserBody_table {s t : State} (h : (deserBody s).EndsIn t) : t.table = s.table := by
  rw [deserBody_frame h]; rfl

theorem decallBody_table {s t : State} (h : (decallBody s).EndsIn t) : t.table = s.table := by
  rw [decallBody_frame h]; rfl

/-- COMP's parts after its FADDT leave the table as they find it. -/
theorem compBody_tableGrows {s t : State} (h : (compBody s).EndsIn t) : s.TableGrows t := by
  rcases Res.endsIn_bind h with h | ⟨_, u, hu, h⟩
  · exact addText_tableGrows h
  · refine (addText_tableGrows (.of_ok hu)).trans (.of_table_eq ?_)
    rcases Res.endsIn_bind h with h | ⟨_, v, hv, h⟩
    · exact buildBody_table h
    · refine Eq.trans ?_ (buildBody_table (.of_ok hv))
      split at h
      · rw [Res.endsIn_ok.1 h]
      · rcases Res.endsIn_bind h with h | ⟨_, w, hw, h⟩
        · exact sertBody_table h
        · refine Eq.trans ?_ (sertBody_table (.of_ok hw))
          rcases Res.endsIn_bind h with h | ⟨_, x, hx, h⟩
          · exact encodeText_table h
          · exact (finBody_table h).trans (encodeText_table (.of_ok hx))

theorem decompBody_table {s t : State} (h : (decompBody s).EndsIn t) : t.table = s.table := by
  rcases Res.endsIn_bind h with h | ⟨_, u, hu, h⟩
  · exact ldhdrBody_table h
  · refine Eq.trans ?_ (ldhdrBody_table (.of_ok hu))
    split at h
    · rw [Res.endsIn_ok.1 h]
    · rcases Res.endsIn_bind h with h | ⟨_, v, hv, h⟩
      · exact deserBody_table h
      · exact (decallBody_table h).trans (deserBody_table (.of_ok hv))

theorem commandBody_tableGrows {i : Instr} {s t : State} (h : (commandBody i s).EndsIn t) : s.TableGrows t := by
  cases i with
  | fadd sym => exact addSym_tableGrows h
  | faddt => exact addText_tableGrows h
  | comp => exact compBody_tableGrows h
  | build => exact .of_table_eq (buildBody_table h)
  | cwlk sym => exact .of_table_eq (by rw [cwlkBody_frame h]; rfl)
  | sert => exact .of_table_eq (sertBody_table h)
  | enc sym => exact .of_table_eq (by rw [encodeSymbol_frame sym h]; rfl)
  | enct => exact .of_table_eq (encodeText_table h)
  | fin => exact .of_table_eq (finBody_table h)
  | ldhdr => exact .of_table_eq (ldhdrBody_table h)
  | deser => exact .of_table_eq (deserBody_table h)
  | dec1 => exact .of_table_eq (by rw [dec1Body_frame h]; rfl)
  | decall => exact .of_table_eq (decallBody_table h)
  | decomp => exact .of_table_eq (decompBody_table h)
  | fcnt sym | rewind => exact .of_table_eq (by rw [Res.endsIn_ok.1 h]; rfl)
  | nop | clr | hdr v | leaf sym | internal | pbit b | padbit => rw [Res.endsIn_ok.1 h]; exact .refl s

/-- The step of a command other than CLR ends where its pseudocode ends, or where nothing ran, but for the fault registers. -/
theorem runCommand_endsIn {i : Instr} {body : State → Res Unit} {s t : State} (h : runCommand i body s = .next t) :
    ∃ u, (u = s ∨ (body s).EndsIn u) ∧ (t = u ∨ ∃ k n, t = u.raise k n) := by
  rcases runCommand_cases h with ⟨_, rfl⟩ | ⟨_, _, rfl⟩ | ⟨_, _, hb⟩ | ⟨_, _, k, n, u, hb, rfl⟩
  · exact ⟨t, .inl rfl, .inl rfl⟩
  · exact ⟨s, .inl rfl, .inr ⟨_, _, rfl⟩⟩
  · exact ⟨t, .inr (.of_ok hb), .inl rfl⟩
  · exact ⟨u, .inr (.of_raised hb), .inr ⟨k, n, rfl⟩⟩

theorem exec_command_tableGrows {i : Instr} {s t : State} (hi : i.place = .command) (hc : i ≠ .clr)
    (h : exec i s = .next t) : s.TableGrows t := by
  rw [exec_command hi hc] at h
  obtain ⟨u, hu, ht⟩ := runCommand_endsIn h
  have hgrows : s.TableGrows u := by
    rcases hu with rfl | hu
    · exact .refl u
    · exact commandBody_tableGrows hu
  refine hgrows.trans (.of_table_eq ?_)
  rcases ht with rfl | ⟨k, n, rfl⟩ <;> rfl

/-- `s` with the fields that a stream record can write taken from `t`: the node store, the header's registers, STATUS, the fault
registers and the reader. -/
def State.withRecordFields (s t : State) : State :=
  { s with
    nodes := t.nodes, nnode := t.nnode, pad := t.pad, icur := t.icur, status := t.status, cause := t.cause,
    einfo := t.einfo, reader := t.reader }

theorem recordOutcome_frame {r : Res Unit} {s t : State} (hr : ∀ u, r.EndsIn u → u = s.withRecordFields u)
    (h : r.recordOutcome = .next t) : t = s.withRecordFields t := by
  rcases recordOutcome_eq_next h with hr' | ⟨k, n, u, hr', rfl⟩
  · exact hr t (.of_ok hr')
  · rw [hr u (.of_raised hr')]; rfl

theorem takeNode_frame {b : Nat} {s t : State} (h : (takeNode b s).EndsIn t) : t = { s with nnode := t.nnode } := by
  rcases takeNode_cases b s with ⟨_, hp⟩ | ⟨_, _, hp⟩ | ⟨_, _, hp⟩ <;> rw [hp] at h
  · rw [Res.endsIn_raised.1 h]
  · rw [Res.endsIn_raised.1 h]
  · rw [Res.endsIn_ok.1 h]

theorem readLeaf_frame {sym : Byte} {cur : Nat} {frames : List Frame} {s t : State}
    (h : (readLeaf sym cur frames s).EndsIn t) : t = s.withRecordFields t := by
  rcases Res.endsIn_bind h with h | ⟨i, u, hu, h⟩
  · rw [takeNode_frame h]; rfl
  · split at h
    · rw [Res.endsIn_raised.1 h, takeNode_frame (.of_ok hu)]; rfl
    · rw [Res.endsIn_ok.1 h, closeSubtree_frame, takeNode_frame (.of_ok hu)]; rfl

theorem readInternal_frame {cur : Nat} {frames : List Frame} {s t : State}
    (h : (readInternal cur frames s).EndsIn t) : t = s.withRecordFields t := by
  rcases Res.endsIn_bind h with h | ⟨i, u, hu, h⟩
  · rw [takeNode_frame h]; rfl
  · rw [Res.endsIn_ok.1 h, takeNode_frame (.of_ok hu)]; rfl

theorem readPayloadBit_frame {b : Bool} {start cur i : Nat} {s t : State}
    (h : (readPayloadBit b start cur i s).EndsIn t) : t = s.withRecordFields t := by
  rw [readPayloadBit] at h
  split at h
  · rw [Res.endsIn_raised.1 h]; rfl
  · rw [Res.endsIn_ok.1 h]; rfl

theorem execHdr_frame {v : Byte} {s t : State} (h : execHdr v s = .next t) : t = s.withRecordFields t := by
  rw [execHdr] at h
  split at h
  · cases h; rfl
  · split at h
    · rcases Res.outcome_eq_next h with ⟨_, hb⟩ | ⟨k, n, u, hb, rfl⟩
      · rw [loadHeader_frame (.of_ok hb)]; rfl
      · rw [loadHeader_frame (.of_raised hb)]; rfl
    · cases h

theorem execLeaf_frame {sym : Byte} {s t : State} (h : execLeaf sym s = .next t) : t = s.withRecordFields t := by
  rw [execLeaf.eq_def] at h
  split at h
  · cases h; rfl
  · split at h
    · exact recordOutcome_frame (fun _ => readLeaf_frame) h
    all_goals cases h

theorem execInternal_frame {s t : State} (h : execInternal s = .next t) : t = s.withRecordFields t := by
  rw [execInternal.eq_def] at h
  split at h
  · cases h; rfl
  · split at h
    · exact recordOutcome_frame (fun _ => readInternal_frame) h
    all_goals cases h

theorem execPbit_frame {b : Bool} {s t : State} (h : execPbit b s = .next t) : t = s.withRecordFields t := by
  rw [execPbit.eq_def] at h
  split at h
  · cases h; rfl
  · split at h
    · split at h
      · cases h
      · split at h
        · cases h
        · exact recordOutcome_frame (fun _ => readPayloadBit_frame) h
    all_goals cases h

theorem exec_record_frame {i : Instr} {s t : State} (hi : i.place ≠ .command) (h : exec i s = .next t) :
    t = s.withRecordFields t := by
  cases i with
  | hdr v => exact execHdr_frame h
  | leaf sym => exact execLeaf_frame h
  | internal => exact execInternal_frame h
  | pbit b => exact execPbit_frame h
  | padbit => cases h; rfl
  | _ => exact absurd rfl hi

/-- What reading at a bit where no record stands writes. -/
theorem noRecord_frame {b : Nat} {s t : State} (h : noRecord s b = .next t) : t = s.withRecordFields t := by
  rw [noRecord.eq_def] at h
  split at h
  · exact execHdr_frame h
  · refine recordOutcome_frame (fun u hu => ?_) h
    rcases Res.endsIn_bind hu with hu | ⟨i, v, hv, hu⟩
    · rw [takeNode_frame hu]; rfl
    · rw [Res.endsIn_raised.1 hu, takeNode_frame (.of_ok hv)]; rfl
  · split at h
    · cases h
    · cases h; rfl
  all_goals cases h

/-! ### The steps -/

/-- A place before a record is not the place of a command word. -/
theorem awaited_ne_command {s : State} {p : Place} {b : Nat} (h : s.awaited = some (p, b)) : p ≠ .command := by
  rw [State.awaited.eq_def] at h
  repeat' split at h
  all_goals cases h
  all_goals decide

/-- What is read at a place other than CMD is a record of that place. -/
theorem decode_place {p : Place} {s rest : Bits} {i : Instr} (hp : p ≠ .command) (h : decode p s = .instr i rest) :
    i.place = p := by
  cases p with
  | command => exact absurd rfl hp
  | header =>
    rw [decode, decodeHeader] at h
    repeat' split at h
    all_goals cases h
    rfl
  | tree =>
    rw [decode, decodeTreeRecord.eq_def] at h
    repeat' split at h
    all_goals cases h
    all_goals rfl
  | payload =>
    rw [decode, decodePayload.eq_def] at h
    split at h
    all_goals cases h
    rfl
  | padding =>
    rw [decode, decodePadding.eq_def] at h
    split at h
    all_goals cases h
    rfl

theorem recordStep_frame {p : Place} {b : Nat} {s t : State} (hp : p ≠ .command) (h : recordStep p b s = .next t) :
    t = s.withRecordFields t := by
  rw [recordStep.eq_def] at h
  split at h
  · next hd => exact exec_record_frame (decode_place hp hd ▸ hp) h
  · exact noRecord_frame h

theorem hostMove_table {m : HostMove} {s t : State} (hm : m ≠ .reset) (h : hostMove m s = .next t) :
    t.table = s.table := by
  rcases hostMove_cases h with ⟨number, value, rfl⟩ | rfl | ⟨a, v, _, _, rfl⟩ | ⟨v, rfl⟩ | ⟨hr, _⟩
  · rcases writeReg_frame s number value with hw | hw | ⟨_, _, hw⟩ <;> rw [hw] <;> rfl
  · rfl
  · rfl
  · rfl
  · exact absurd hr hm

/-- The host's turn, where it is no reset. -/
theorem hostStep_table {s t : State} (hr : s.resetNext = false) (h : hostStep s = .next t) : t.table = s.table := by
  rcases hostStep_cases h with ⟨_, rfl⟩ | ⟨m, rest, hm, h⟩
  · rfl
  · refine (hostMove_table ?_ h).trans rfl
    rintro rfl
    simp [State.resetNext, hm] at hr

/-- CLR has one word (R103). -/
theorem decodeCommand_eq_clr {w : CmdWord} (h : decodeCommand w = some .clr) : w = 0x0100#16 := by
  rw [decodeCommand, decodeOp.eq_def] at h
  split at h <;> simp only [formatN, reduceCtorEq, Option.some.injEq, Option.ite_none_right_eq_some, and_false, and_true] at h
  next hop => bv_omega

/-- A step that neither resets nor clears only lets the table grow. -/
theorem step_tableGrows {s t : State} (h : step s = .next t) (hd : s.discards = false) : s.TableGrows t := by
  rw [State.discards, Bool.or_eq_false_iff] at hd
  obtain ⟨hreset, hclr⟩ := hd
  rcases step_cases h with ⟨rest, hm, _⟩ | ⟨_, hb, u, hu, rfl⟩ | ⟨_, _, p, b, ha, hr⟩ | ⟨_, _, _, hh⟩
  · simp [State.resetNext, hm] at hreset
  · have hend : u.TableGrows u.endCommand := .of_table_eq rfl
    refine State.TableGrows.trans ?_ hend
    rcases onCmdWrite_cases s.cmd s with ⟨i, hi, hplace, hw⟩ | ⟨_, hw⟩ <;> rw [hw] at hu
    · refine exec_command_tableGrows hplace ?_ hu
      rintro rfl
      simp [hb, decodeCommand_eq_clr hi] at hclr
    · cases hu
      refine .of_table_eq ?_
      rw [illegalCommand]
      split <;> rfl
  · exact .of_table_eq (by rw [recordStep_frame (awaited_ne_command ha) hr]; rfl)
  · exact .of_table_eq (hostStep_table hreset hh)

/-- A step that resets or clears leaves what a reset event or CLR leaves. -/
theorem step_of_discards {s t : State} (h : step s = .next t) (hd : s.discards = true) :
    (∃ rest, t = { s with hostMoves := rest }.afterReset) ∨ t = s.cleared.endCommand := by
  rcases step_cases h with ⟨rest, _, ht⟩ | ⟨hr, _, u, hu, rfl⟩ | ⟨hr, hb, _⟩ | ⟨hr, hb, _⟩
  · exact .inl ⟨rest, ht⟩
  · obtain ⟨_, hcmd⟩ : s.status.busy = true ∧ s.cmd = 0x0100#16 := by simpa [State.discards, hr] using hd
    rw [hcmd, onCmdWrite_of_decode (i := .clr) (by decide)] at hu
    cases hu
    exact .inr rfl
  · simp [State.discards, hr, hb] at hd
  · simp [State.discards, hr, hb] at hd

/-- Settles O22: a step either lets the table grow, which keeps its invariant, or leaves the table of reset. -/
theorem stepKeepsFrequencyTable : Obligations.StepKeepsFrequencyTable := by
  unfold Obligations.StepKeepsFrequencyTable
  intro s t hs h
  cases hd : s.discards with
  | false => exact (step_tableGrows h hd).freqOk hs
  | true =>
    have htable : t.table = (State.initial s.params).table := by
      rcases step_of_discards h hd with ⟨rest, rfl⟩ | rfl <;> rfl
    exact (State.TableGrows.of_table_eq htable).freqOk (State.initial_freqOk s.params)

/-- Settles O23, by the growth of the table in every step that does not discard it. -/
theorem frequencyTableNeverShrinks : Obligations.FrequencyTableNeverShrinks := by
  unfold Obligations.FrequencyTableNeverShrinks
  intro s t h hd
  obtain ⟨hfreq, hnsym, htotal, horder, _⟩ := step_tableGrows h hd
  exact ⟨hfreq, hnsym, htotal, horder⟩

end Sys2Proof.Machine

/-!
PROOFS of the state obligations, part 2: the tree that stands under a node of NODE (R41), the forest that BUILD merges (R143), the
tree that `Des` reads (R183), and the code table of a tree (R146).
-/

namespace Sys2Proof.Machine

/-! ## The tree under a node -/

/-- The entries under node `i` are the tree, and stand at these indices in pre-order (R41). -/
inductive State.HoldsTree (s : State) : Nat → Tree → List Nat → Prop where
  | leaf {i : Nat} (hi : i < s.nnode) (hleaf : (s.nodeAt i).leaf = true) :
    s.HoldsTree i (.leaf (s.nodeAt i).count (s.nodeAt i).sym) [i]
  | internal {i : Nat} {l r : Tree} {ls rs : List Nat} (hi : i < s.nnode) (hleaf : (s.nodeAt i).leaf = false)
    (hl : s.HoldsTree (s.nodeAt i).left l ls) (hr : s.HoldsTree (s.nodeAt i).right r rs) :
    s.HoldsTree i (.internal (s.nodeAt i).count l r) (i :: (ls ++ rs))

/-- The levels of a tree. -/
def Tree.height : Tree → Nat
  | .leaf _ _ => 1
  | .internal _ l r => 1 + max l.height r.height

theorem Tree.size_pos (t : Tree) : 1 ≤ t.size := by
  cases t with
  | leaf => exact le_rfl
  | internal => rw [Tree.size]; omega

/-- Every level above the last has a node beside the path. -/
theorem Tree.height_le_size (t : Tree) : 2 * t.height ≤ t.size + 1 := by
  induction t with
  | leaf => exact le_rfl
  | internal c l r ihl ihr =>
    have := l.size_pos
    have := r.size_pos
    rw [Tree.height, Tree.size]
    omega

namespace State.HoldsTree

theorem length_eq {s : State} {i : Nat} {t : Tree} {is : List Nat} (h : s.HoldsTree i t is) : is.length = t.size := by
  induction h with
  | leaf => rfl
  | internal _ _ _ _ ihl ihr => rw [List.length_cons, List.length_append, ihl, ihr, Tree.size]; omega

theorem count_eq {s : State} {i : Nat} {t : Tree} {is : List Nat} (h : s.HoldsTree i t is) : t.count = s.nodeCount i := by
  cases h <;> rfl

/-- The tree stands in every state with the same entries at its indices. -/
theorem congr {s u : State} {i : Nat} {t : Tree} {is : List Nat} (h : s.HoldsTree i t is)
    (hn : s.nnode ≤ u.nnode) (hnodes : ∀ j ∈ is, u.nodeAt j = s.nodeAt j) : u.HoldsTree i t is := by
  induction h with
  | leaf hi hleaf =>
    have hnode := hnodes _ List.mem_cons_self
    rw [← hnode] at hleaf ⊢
    exact .leaf (hi.trans_le hn) hleaf
  | @internal i l r ls rs hi hleaf _ _ ihl ihr =>
    have hnode := hnodes _ List.mem_cons_self
    have hl := ihl fun j hj => hnodes j (by simp [hj])
    have hr := ihr fun j hj => hnodes j (by simp [hj])
    rw [← hnode] at hleaf hl hr ⊢
    exact .internal (hi.trans_le hn) hleaf hl hr

/-- The bounded reader of R41 finds the tree. -/
theorem treeAt? {s : State} {i d : Nat} {t : Tree} {is : List Nat} (h : s.HoldsTree i t is) (hd : t.height ≤ d) :
    s.treeAt? d i = some t := by
  induction h generalizing d with
  | leaf hi hleaf =>
    cases d with
    | zero => exact absurd hd (by simp [Tree.height])
    | succ d => rw [State.treeAt?, if_neg (Nat.not_le.2 hi), if_pos hleaf]
  | @internal i l r ls rs hi hleaf _ _ ihl ihr =>
    rw [Tree.height] at hd
    cases d with
    | zero => omega
    | succ d =>
      rw [State.treeAt?, if_neg (Nat.not_le.2 hi), if_neg (by simp [hleaf]), ihl (by omega), ihr (by omega)]

theorem indicesAt {s : State} {i d : Nat} {t : Tree} {is : List Nat} (h : s.HoldsTree i t is) (hd : t.height ≤ d) :
    s.indicesAt d i = is := by
  induction h generalizing d with
  | leaf hi hleaf =>
    cases d with
    | zero => exact absurd hd (by simp [Tree.height])
    | succ d => rw [State.indicesAt, if_pos hleaf]
  | @internal i l r ls rs hi hleaf _ _ ihl ihr =>
    rw [Tree.height] at hd
    cases d with
    | zero => omega
    | succ d => rw [State.indicesAt, if_neg (by simp [hleaf]), ihl (by omega), ihr (by omega)]

end State.HoldsTree

theorem treeAt?_congr {s u : State} (hnodes : u.nodes = s.nodes) (hn : u.nnode = s.nnode) (d i : Nat) :
    u.treeAt? d i = s.treeAt? d i := by
  have hnode (j : Nat) : u.nodeAt j = s.nodeAt j := by rw [State.nodeAt, State.nodeAt, hnodes]
  induction d generalizing i with
  | zero => rfl
  | succ d ih => rw [State.treeAt?, State.treeAt?, hn, hnode, ih, ih]

theorem tree?_congr {s u : State} (hnodes : u.nodes = s.nodes) (hn : u.nnode = s.nnode) (hroot : u.root = s.root) :
    u.tree? = s.tree? := by
  rw [State.tree?, State.tree?, hroot, treeAt?_congr hnodes hn]

theorem indicesAt_congr {s u : State} (hnodes : u.nodes = s.nodes) (d i : Nat) : u.indicesAt d i = s.indicesAt d i := by
  have hnode (j : Nat) : u.nodeAt j = s.nodeAt j := by rw [State.nodeAt, State.nodeAt, hnodes]
  induction d generalizing i with
  | zero => rfl
  | succ d ih => rw [State.indicesAt, State.indicesAt, hnode, ih, ih]

/-- The tree under ROOT takes every entry below NNODE once, and the code table is its own (R41, R44): what `State.TreeOk` asks
where ROOTV = 1. -/
structure State.HasTree (s : State) (t : Tree) : Prop where
  nnode_le : s.nnode ≤ 511
  tree? : s.tree? = some t
  size_eq : t.size = s.nnode
  indices : (s.indicesAt Config.nodeCap s.root).Perm (List.range s.nnode)
  code_eq : s.code = t.codeTable

theorem State.HasTree.congr {s u : State} {t : Tree} (h : s.HasTree t) (hnodes : u.nodes = s.nodes)
    (hn : u.nnode = s.nnode) (hroot : u.root = s.root) (hcode : u.code = s.code) : u.HasTree t where
  nnode_le := hn ▸ h.nnode_le
  tree? := (tree?_congr hnodes hn hroot).trans h.tree?
  size_eq := hn ▸ h.size_eq
  indices := by rw [hroot, hn, indicesAt_congr hnodes]; exact h.indices
  code_eq := hcode ▸ h.code_eq

theorem State.HoldsTree.hasTree {s : State} {t : Tree} {is : List Nat} (h : s.HoldsTree s.root t is)
    (hn : s.nnode ≤ 511) (his : is.Perm (List.range s.nnode)) (hcode : s.code = t.codeTable) : s.HasTree t := by
  have hsize : t.size = s.nnode := by rw [← h.length_eq, his.length_eq, List.length_range]
  have hheight : t.height ≤ Config.nodeCap := by
    have := t.height_le_size
    rw [Config.nodeCap]
    omega
  exact ⟨hn, h.treeAt? hheight, hsize, h.indicesAt hheight ▸ his, hcode⟩

/-- `DeriveCodes` of a tree that takes every entry below NNODE (R146). -/
theorem deriveCodes_of_holds {s : State} {t : Tree} {is : List Nat} (h : s.HoldsTree s.root t is) (hn : s.nnode ≤ 511)
    (his : is.Perm (List.range s.nnode)) :
    deriveCodes s = .ok () { s with code := t.codeTable } ∧ { s with code := t.codeTable }.HasTree t := by
  have hcoded : { s with code := t.codeTable }.HasTree t :=
    (h.congr (u := { s with code := t.codeTable }) le_rfl fun _ _ => rfl).hasTree hn his rfl
  have hsame : { s with code := t.codeTable }.tree? = s.tree? := tree?_congr rfl rfl rfl
  have htree : s.tree? = some t := by rw [← hsame, hcoded.tree?]
  exact ⟨by rw [deriveCodes.eq_def, htree], hcoded⟩

/-! ## Writes to NODE -/

theorem State.nodeAt_setNode {s : State} {i : Nat} (hi : i < 511) (n : Node) (j : Nat) :
    (s.setNode i n).nodeAt j = if j = i then n else s.nodeAt j := by
  by_cases hj : j = i
  · subst hj
    rw [State.nodeAt, State.setNode_nodes, Vector.getElem?_setIfInBounds_self_of_lt hi, if_pos rfl]; rfl
  · rw [State.nodeAt, State.setNode_nodes, Vector.getElem?_setIfInBounds_ne (Ne.symm hj), if_neg hj]; rfl

/-- A new internal node over two trees that stand beside it. -/
theorem State.HoldsTree.join {s u : State} {i a b c : Nat} {l r : Tree} {ls rs : List Nat} (hl : s.HoldsTree a l ls)
    (hr : s.HoldsTree b r rs) (hi : i < 511) (hfresh : i ∉ ls ++ rs) (hin : i < u.nnode) (hn : s.nnode ≤ u.nnode)
    (hu : u.nodes = (s.setNode i (Node.mkInternal a b c)).nodes) :
    u.HoldsTree i (.internal c l r) (i :: (ls ++ rs)) := by
  have hnode (j : Nat) : u.nodeAt j = if j = i then Node.mkInternal a b c else s.nodeAt j := by
    rw [← State.nodeAt_setNode hi]
    exact congrArg (fun v : Vector Node 511 => (v[j]?).getD Node.zero) hu
  have hself : u.nodeAt i = Node.mkInternal a b c := by rw [hnode, if_pos rfl]
  have hother (j : Nat) (hj : j ∈ ls ++ rs) : u.nodeAt j = s.nodeAt j := by
    rw [hnode, if_neg]; rintro rfl; exact hfresh hj
  have hl' := hl.congr hn fun j hj => hother j (List.mem_append_left _ hj)
  have hr' := hr.congr hn fun j hj => hother j (List.mem_append_right _ hj)
  have h := State.HoldsTree.internal (s := u) (i := i) (l := l) (r := r) (ls := ls) (rs := rs) hin (by rw [hself]; rfl)
    (by rw [hself]; exact hl') (by rw [hself]; exact hr')
  rw [hself] at h
  exact h

/-! ## Sorting -/

theorem insertByCount_perm (count : Nat → Nat) (x : Nat) (l : List Nat) : (insertByCount count x l).Perm (x :: l) := by
  induction l with
  | nil => exact .rfl
  | cons y ys ih =>
    rw [insertByCount]
    split
    · exact .rfl
    · exact (ih.cons y).trans (.swap x y ys)

theorem stableSort_perm (count : Nat → Nat) (l : List Nat) : (stableSort count l).Perm l := by
  have hfold (sorted : List Nat) :
      (l.foldl (fun sorted x => insertByCount count x sorted) sorted).Perm (sorted ++ l) := by
    induction l generalizing sorted with
    | nil => simp
    | cons x l ih =>
      refine (ih _).trans ?_
      refine ((insertByCount_perm count x sorted).append_right l).trans ?_
      exact List.perm_middle.symm
  exact hfold []

/-! ## The forest that BUILD merges -/

/-- One tree of the forest: its root's index, the tree and the indices of its nodes. -/
abbrev Entry := Nat × Tree × List Nat

/-- The working list `roots` of R140 is the roots of the entries, each a tree that stands in NODE, and together they take every
entry below NNODE once. -/
structure State.Forest (s : State) (roots : List Nat) (entries : List Entry) : Prop where
  roots_perm : roots.Perm (entries.map Prod.fst)
  holds : ∀ e ∈ entries, s.HoldsTree e.1 e.2.1 e.2.2
  indices : (entries.flatMap fun e => e.2.2).Perm (List.range s.nnode)

/-- The leaves of a forest's trees. -/
def leavesOf (entries : List Entry) : List (Nat × Byte) := entries.flatMap fun e => e.2.1.leaves

theorem leavesOf_perm {es fs : List Entry} (h : es.Perm fs) : (leavesOf es).Perm (leavesOf fs) :=
  h.flatMap_right _

theorem State.Forest.sort {s : State} {roots roots' : List Nat} {es : List Entry} (h : s.Forest roots es)
    (hr : roots'.Perm roots) : s.Forest roots' es :=
  ⟨hr.trans h.roots_perm, h.holds, h.indices⟩

/-- The forest's tree under the first root of the list stands first in a reordering of the forest. -/
theorem exists_entry {a : Nat} {roots : List Nat} {es : List Entry} (h : (a :: roots).Perm (es.map Prod.fst)) :
    ∃ e fs, e.1 = a ∧ es.Perm (e :: fs) ∧ roots.Perm (fs.map Prod.fst) := by
  obtain ⟨e, he, hea⟩ := List.mem_map.1 (h.subset List.mem_cons_self)
  obtain ⟨xs, ys, rfl⟩ := List.append_of_mem he
  have hperm : (xs ++ e :: ys).Perm (e :: (xs ++ ys)) := List.perm_middle
  refine ⟨e, xs ++ ys, hea, hperm, ?_⟩
  have := h.trans (hperm.map Prod.fst)
  rw [List.map_cons, hea] at this
  exact this.cons_inv

/-- The entry that a merge step makes of two (R143). -/
def mergeEntry (n : Nat) (x y : Entry) : Entry :=
  (n, .internal (x.2.1.count + y.2.1.count) x.2.1 y.2.1, n :: (x.2.2 ++ y.2.2))

/-- One merge step of BUILD on the forest. -/
theorem State.Forest.merge {s : State} {a b : Nat} {rest : List Nat} {es : List Entry} (h : s.Forest (a :: b :: rest) es)
    (hn : s.nnode < 511) :
    ∃ x y fs, es.Perm (x :: y :: fs) ∧ (s.merged a b).Forest (rest ++ [s.nnode]) (fs ++ [mergeEntry s.nnode x y]) := by
  obtain ⟨x, fs, rfl, hx, hroots⟩ := exists_entry h.roots_perm
  obtain ⟨y, fs, rfl, hy, hroots⟩ := exists_entry hroots
  have hes : es.Perm (x :: y :: fs) := hx.trans (hy.cons x)
  have hindices : (x.2.2 ++ (y.2.2 ++ fs.flatMap fun e => e.2.2)).Perm (List.range s.nnode) :=
    (hes.symm.flatMap_right _).trans h.indices
  have hbelow (j : Nat) (hj : j ∈ x.2.2 ++ (y.2.2 ++ fs.flatMap fun e => e.2.2)) : j < s.nnode :=
    List.mem_range.1 (hindices.subset hj)
  have hholds (e : Entry) (he : e ∈ x :: y :: fs) : s.HoldsTree e.1 e.2.1 e.2.2 := h.holds e (hes.mem_iff.2 he)
  have hhx := hholds x (by simp)
  have hhy := hholds y (by simp)
  refine ⟨x, y, fs, hes, ?_, ?_, ?_⟩
  · rw [List.map_append]
    exact hroots.append_right _
  · intro e he
    rcases List.mem_append.1 he with he | he
    · refine (hholds e (by simp [he])).congr (Nat.le_succ _) fun j hj => ?_
      have hlt := hbelow j (by
        simp only [List.mem_append, List.mem_flatMap]
        exact .inr (.inr ⟨e, he, hj⟩))
      exact (State.nodeAt_setNode hn _ j).trans (if_neg hlt.ne)
    · rw [List.mem_singleton.1 he, mergeEntry, hhx.count_eq, hhy.count_eq]
      refine hhx.join hhy hn (fun hmem => ?_) (Nat.lt_succ_self _) (Nat.le_succ _) rfl
      have := hbelow s.nnode (by
        rw [← List.append_assoc]
        exact List.mem_append_left _ hmem)
      omega
  · rw [List.flatMap_append, State.merged_nnode, List.range_succ]
    have hnew : ((fs.flatMap fun e => e.2.2) ++ [mergeEntry s.nnode x y].flatMap fun e => e.2.2).Perm
        (s.nnode :: (x.2.2 ++ (y.2.2 ++ fs.flatMap fun e => e.2.2))) := by
      simp only [List.flatMap_singleton, mergeEntry]
      refine List.perm_append_comm.trans ?_
      simp
    exact (hnew.trans (hindices.cons _)).trans (List.perm_append_singleton _ _).symm

/-- What the merge loop leaves: one tree of all the entries below NNODE, with the forest's leaves, its counts adding up. -/
structure State.MergedTo (t : State) (root : Nat) (tree : Tree) (is : List Nat) (leaves : List (Nat × Byte)) : Prop where
  holds : t.HoldsTree root tree is
  indices : is.Perm (List.range t.nnode)
  leaves_perm : tree.leaves.Perm leaves
  countsAdd : tree.countsAdd

/-- A forest of one root is one tree. -/
theorem State.Forest.mergedTo {s : State} {root : Nat} {es : List Entry} (h : s.Forest [root] es)
    (hcounts : ∀ e ∈ es, e.2.1.countsAdd) : ∃ tree is, s.MergedTo root tree is (leavesOf es) := by
  obtain ⟨e, fs, rfl, hes, hroots⟩ := exists_entry h.roots_perm
  obtain rfl : fs = [] := by simpa using hroots
  obtain rfl := List.perm_singleton.1 hes
  have hindices := h.indices
  rw [List.flatMap_singleton] at hindices
  refine ⟨e.2.1, e.2.2, h.holds e List.mem_cons_self, hindices, ?_, hcounts e List.mem_cons_self⟩
  rw [leavesOf, List.flatMap_singleton]

theorem mergeAll_single (fuel root : Nat) (s : State) : mergeAll fuel [root] s = .ok root s := by
  cases fuel <;> rfl

/-- The merge loop of BUILD makes one tree of a forest that the node store has room for. -/
theorem mergeAll_forest {fuel : Nat} {roots : List Nat} {s : State} {es : List Entry} (h : s.Forest roots es)
    (hpos : 1 ≤ roots.length) (hfuel : roots.length ≤ fuel + 1) (hroom : s.nnode + roots.length ≤ 512)
    (hcounts : ∀ e ∈ es, e.2.1.countsAdd) :
    ∃ root t tree is, mergeAll fuel roots s = .ok root t ∧ t.MergedTo root tree is (leavesOf es) ∧
      t.nnode + 1 = s.nnode + roots.length := by
  induction fuel generalizing roots s es with
  | zero =>
    obtain ⟨root, rfl⟩ := List.length_eq_one_iff.1 (Nat.le_antisymm hfuel hpos)
    obtain ⟨tree, is, hmerged⟩ := h.mergedTo hcounts
    exact ⟨root, s, tree, is, mergeAll_single _ _ _, hmerged, rfl⟩
  | succ fuel ih =>
    match roots with
    | [] => exact absurd hpos (by decide)
    | [root] =>
      obtain ⟨tree, is, hmerged⟩ := h.mergedTo hcounts
      exact ⟨root, s, tree, is, mergeAll_single _ _ _, hmerged, rfl⟩
    | a :: b :: rest =>
      simp only [List.length_cons] at hfuel hroom
      obtain ⟨x, y, fs, hes, hforest⟩ := h.merge (by omega)
      have hlength := (stableSort_perm (s.merged a b).nodeCount (rest ++ [s.nnode])).length_eq
      simp only [List.length_append, List.length_singleton] at hlength
      have hxy (e : Entry) (he : e ∈ x :: y :: fs) : e.2.1.countsAdd := hcounts e (hes.mem_iff.2 he)
      have hadds (e : Entry) (he : e ∈ fs ++ [mergeEntry s.nnode x y]) : e.2.1.countsAdd := by
        rcases List.mem_append.1 he with he | he
        · exact hxy e (by simp [he])
        · rw [List.mem_singleton.1 he]
          exact ⟨rfl, hxy x (by simp), hxy y (by simp)⟩
      have hsorted := hforest.sort (stableSort_perm (s.merged a b).nodeCount _)
      obtain ⟨root, t, tree, is, hm, hmerged, hnnode⟩ :=
        ih hsorted (by omega) (by omega) (by rw [State.merged_nnode]; omega) hadds
      have hleaves : (leavesOf (fs ++ [mergeEntry s.nnode x y])).Perm (leavesOf es) := by
        refine .trans ?_ (leavesOf_perm hes).symm
        simp only [leavesOf, List.flatMap_append, List.flatMap_cons, List.flatMap_nil, List.append_nil, mergeEntry,
          Tree.leaves]
        exact List.perm_append_comm.trans (.of_eq (List.append_assoc _ _ _))
      obtain ⟨hholds, his, hperm, hadd⟩ := hmerged
      refine ⟨root, t, tree, is, by rw [mergeAll, hm], ⟨hholds, his, hperm.trans hleaves, hadd⟩, ?_⟩
      rw [hnnode, State.merged_nnode, hlength, List.length_cons, List.length_cons]
      omega

/-! ## BUILD -/

/-- The first `n` leaves of R141, each written by its own `NODE` store. -/
theorem setLeaves_nodeAt (s : State) {n : Nat} (hn : n ≤ 511) (j : Nat) :
    ((List.range n).foldl State.setLeaf s).nodeAt j =
      if j < n then Node.mkLeaf (s.orderAt j) (s.freqOf (s.orderAt j)) else s.nodeAt j := by
  induction n with
  | zero => rfl
  | succ n ih =>
    have hset (u : State) (hu : u = { s with nodes := u.nodes }) :
        u.setLeaf n = u.setNode n (Node.mkLeaf (s.orderAt n) (s.freqOf (s.orderAt n))) := by rw [hu]; rfl
    rw [List.range_succ, List.foldl_append, List.foldl_cons, List.foldl_nil, hset _ (setLeaves_frame _ s),
      State.nodeAt_setNode (by omega), ih (by omega)]
    by_cases hj : j = n
    · rw [if_pos hj, if_pos (by omega), hj]
    · rw [if_neg hj]
      exact if_congr (by omega) rfl rfl

theorem withLeaves_nodeAt {s : State} (hn : s.nsym ≤ 256) {i : Nat} (hi : i < s.nsym) :
    s.withLeaves.nodeAt i = Node.mkLeaf (s.orderAt i) (s.freqOf (s.orderAt i)) :=
  (setLeaves_nodeAt s (by omega) i).trans (if_pos hi)

/-- The forest that BUILD starts from: the leaf of rank `i` at index `i`. -/
def State.leafEntries (s : State) : List Entry :=
  (List.range s.nsym).map fun i => (i, .leaf (s.freqOf (s.orderAt i)) (s.orderAt i), [i])

theorem leafEntries_leaves (s : State) : leavesOf s.leafEntries = s.orderList.map fun sym => (s.freqOf sym, sym) := by
  simp only [leavesOf, State.leafEntries, List.flatMap_map, Tree.leaves, State.orderList, List.map_map]
  exact List.flatMap_pure_eq_map _ _

theorem leafEntries_forest {s : State} (hn : s.nsym ≤ 256) : s.withLeaves.Forest (List.range s.nsym) s.leafEntries where
  roots_perm := by
    rw [State.leafEntries, List.map_map]
    exact .of_eq (List.map_id _).symm
  holds e he := by
    obtain ⟨i, hi, rfl⟩ := List.mem_map.1 he
    have hi := List.mem_range.1 hi
    have hnode := withLeaves_nodeAt hn hi
    have h := State.HoldsTree.leaf (s := s.withLeaves) (i := i) hi (by rw [hnode]; rfl)
    rw [hnode] at h
    exact h
  indices := by
    rw [State.leafEntries, List.flatMap_map]
    exact .of_eq (List.flatMap_pure_eq_map _ _ |>.trans (List.map_id _))

/-- BUILD of a table with symbols ends, with a tree of the table's leaves whose counts add up (R140 to R144, R151). -/
theorem buildBody_tree {s : State} (h0 : s.nsym ≠ 0) (hn : s.nsym ≤ 256) :
    ∃ t tree, buildBody s = .ok () t ∧ t.HasTree tree ∧
      tree.leaves.Perm (s.orderList.map fun sym => (s.freqOf sym, sym)) ∧ tree.countsAdd ∧
      t.status = { s.status with rootv := true, codev := true, phase := .built } ∧ t.olen = s.olen := by
  have hperm := stableSort_perm s.withLeaves.nodeCount (List.range s.nsym)
  have hlength := hperm.length_eq
  rw [List.length_range] at hlength
  have hnnode : s.withLeaves.nnode = s.nsym := rfl
  have hadds (e : Entry) (he : e ∈ s.leafEntries) : e.2.1.countsAdd := by
    obtain ⟨i, _, rfl⟩ := List.mem_map.1 he
    trivial
  obtain ⟨root, u, tree, is, hm, ⟨hholds, his, hleaves, hadd⟩, hu⟩ :=
    mergeAll_forest (fuel := s.nsym) ((leafEntries_forest hn).sort hperm) (by omega) (by omega) (by omega) hadds
  have hsame : u.status = s.status ∧ u.olen = s.olen := by
    rcases mergeAll_frame s.nsym (stableSort s.withLeaves.nodeCount (List.range s.nsym)) (s := s.withLeaves) with
      ⟨_, v, hv, hframe⟩ | hv
    · obtain ⟨rfl, rfl⟩ : root = _ ∧ u = v := by simpa [hm] using hv
      rw [hframe, withLeaves_frame]
      exact ⟨rfl, rfl⟩
    · simp [hm] at hv
  obtain ⟨hd, htree⟩ := deriveCodes_of_holds (s := { u with root := root })
    (hholds.congr (u := { u with root := root }) le_rfl fun _ _ => rfl) (show u.nnode ≤ 511 by omega) his
  refine ⟨{ u with root := root, code := tree.codeTable }.treeReady .built, tree, ?_, htree.congr rfl rfl rfl rfl,
    hleaves.trans (.of_eq (leafEntries_leaves s)), hadd, ?_, hsame.2⟩
  · rw [buildBody, if_neg h0, if_neg (show ¬ Config.nsymMax < s.nsym from Nat.not_lt.2 hn), hm, Res.bind_ok, hd]
    rfl
  · rw [State.treeReady_status, hsame.1]

/-- A command in phase whose pseudocode reaches its last line. -/
theorem exec_of_ok {i : Instr} {s t : State} (hi : i.place = .command) (hc : i ≠ .clr) (he : s.status.err = false)
    (hp : s.status.permits i = true) (hb : commandBody i s = .ok () t) : exec i s = .next t := by
  rw [exec_command hi hc, runCommand_runs he hp, hb]; rfl

/-- BUILD as a command, of a table with symbols in phase COUNT. -/
theorem exec_build_tree {s : State} (hs : s.FreqOk) (he : s.status.err = false) (hp : s.status.phase = .count)
    (h1 : 1 ≤ s.nsym) :
    ∃ t tree, exec .build s = .next t ∧ t.HasTree tree ∧
      tree.leaves.Perm (s.orderList.map fun sym => (s.freqOf sym, sym)) ∧ tree.countsAdd := by
  obtain ⟨t, tree, hb, htree, hleaves, hadd, _⟩ := buildBody_tree (Nat.one_le_iff_ne_zero.1 h1) hs.nsym_le
  exact ⟨t, tree, exec_of_ok rfl (by decide) he (by simp [Status.permits, hp]) hb, htree, hleaves, hadd⟩

/-! ## The root's count (R151 (c)) -/

/-- Where the counts add up, the root counts all the leaves. -/
theorem Tree.count_eq_leaves_sum {t : Tree} (h : t.countsAdd) : t.count = (t.leaves.map Prod.fst).sum := by
  induction t with
  | leaf c sym => simp [Tree.count, Tree.leaves]
  | internal c l r ihl ihr =>
    obtain ⟨hc, hl, hr⟩ := h
    rw [Tree.count, hc, ihl hl, ihr hr, Tree.leaves, List.map_append, List.sum_append]

/-- A sum over the whole file, entry by entry. -/
theorem sum_freq_eq (s : State) : s.freq.toList.sum = ∑ i : Fin 256, s.freqOf (BitVec.ofFin i) := by
  have hlist : s.freq.toList = List.ofFn fun i : Fin 256 => s.freqOf (BitVec.ofFin i) := by
    refine List.ext_getElem (by rw [Vector.length_toList, List.length_ofFn]) fun i h _ => ?_
    rw [Vector.getElem_toList, List.getElem_ofFn]
    rfl
  rw [hlist, List.sum_ofFn]

/-- TOTAL is the sum of the counts of the symbols in ORDER (R39). -/
theorem State.FreqOk.total_eq_orderList_sum {s : State} (h : s.FreqOk) : s.total = (s.orderList.map s.freqOf).sum := by
  have hinj : Function.Injective (BitVec.toFin : Byte → Fin 256) := fun _ _ => BitVec.toFin_inj.1
  have hmap : (s.orderList.map BitVec.toFin).Nodup := h.nodup.map hinj
  rw [h.total_eq, sum_freq_eq]
  calc ∑ i : Fin 256, s.freqOf (BitVec.ofFin i)
      = ∑ i ∈ (s.orderList.map BitVec.toFin).toFinset, s.freqOf (BitVec.ofFin i) := by
        refine (Finset.sum_subset (Finset.subset_univ _) fun i _ hi => ?_).symm
        by_contra hpos
        refine hi (List.mem_toFinset.2 (List.mem_map.2 ⟨BitVec.ofFin i, ?_, rfl⟩))
        exact (h.mem_iff _).2 (Nat.one_le_iff_ne_zero.2 hpos)
    _ = (s.orderList.map s.freqOf).sum := by
        rw [List.sum_toFinset _ hmap, List.map_map]; rfl

/-- Settles O27: BUILD merges the forest of the table's leaves, and the root counts the sum of its leaves' counts. -/
theorem builtTreeCountsTheTable : Obligations.BuiltTreeCountsTheTable := by
  unfold Obligations.BuiltTreeCountsTheTable
  intro s hs he hp h1
  obtain ⟨t, tree, hexec, htree, hleaves, hadd⟩ := exec_build_tree hs he hp h1
  refine ⟨t, tree, hexec, htree.tree?, hleaves, hadd, ?_⟩
  rw [Tree.count_eq_leaves_sum hadd, hs.total_eq_orderList_sum, (hleaves.map Prod.fst).sum_eq, List.map_map]
  rfl

/-! ## The code table of a tree (R146) -/

/-- The symbols of a tree's paths are those of its leaves, in the same order. -/
theorem Tree.paths_symbols (t : Tree) (path : Bits) : (t.paths path).map Prod.fst = t.leaves.map Prod.snd := by
  induction t generalizing path with
  | leaf => rfl
  | internal c l r ihl ihr => rw [Tree.paths, Tree.leaves, List.map_append, List.map_append, ihl, ihr]

/-- A path begins with the bits that lead to the tree. -/
theorem Tree.prefix_of_mem_paths {t : Tree} {path : Bits} {e : Byte × Bits} (h : e ∈ t.paths path) : path <+: e.2 := by
  induction t generalizing path with
  | leaf c sym => rw [List.mem_singleton.1 h]
  | internal c l r ihl ihr =>
    rcases List.mem_append.1 h with h | h
    · exact (List.prefix_append _ _).trans (ihl h)
    · exact (List.prefix_append _ _).trans (ihr h)

theorem Tree.length_lt_of_mem_paths {t : Tree} {path : Bits} {e : Byte × Bits} (h : e ∈ t.paths path) :
    e.2.length < path.length + t.height := by
  induction t generalizing path with
  | leaf c sym => rw [List.mem_singleton.1 h, Tree.height]; exact Nat.lt_succ_self _
  | internal c l r ihl ihr =>
    rw [Tree.height]
    rcases List.mem_append.1 h with h | h
    · have := ihl h
      rw [List.length_append, List.length_singleton] at this
      omega
    · have := ihr h
      rw [List.length_append, List.length_singleton] at this
      omega

/-- Two sequences that go different ways after the same bits are not prefixes of one sequence. -/
theorem not_prefix_of_branch {path p q : Bits} (hp : path ++ [false] <+: p) (hq : path ++ [true] <+: q) :
    ¬ p <+: q ∧ ¬ q <+: p := by
  have hbranch {u : Bits} (hf : path ++ [false] <+: u) (ht : path ++ [true] <+: u) : False := by
    have heq := (List.prefix_of_prefix_length_le hf ht (by simp)).eq_of_length (by simp)
    simp at heq
  exact ⟨fun h => hbranch (hp.trans h) hq, fun h => hbranch hp (hq.trans h)⟩

/-- A path that begins another is that path (R151 (a)). -/
theorem Tree.paths_prefix_free {t : Tree} {path : Bits} {e f : Byte × Bits} (he : e ∈ t.paths path)
    (hf : f ∈ t.paths path) (h : e.2 <+: f.2) : e = f := by
  induction t generalizing path with
  | leaf c sym => rw [List.mem_singleton.1 he, List.mem_singleton.1 hf]
  | internal c l r ihl ihr =>
    rcases List.mem_append.1 he with he | he <;> rcases List.mem_append.1 hf with hf | hf
    · exact ihl he hf
    · exact absurd h (not_prefix_of_branch (prefix_of_mem_paths he) (prefix_of_mem_paths hf)).1
    · exact absurd h (not_prefix_of_branch (prefix_of_mem_paths hf) (prefix_of_mem_paths he)).2
    · exact ihr he hf

/-- The CODE entry of a codeword. -/
def CodeEntry.ofBits (bits : Bits) : CodeEntry := { valid := true, len := bits.length, bits := bits }

/-- An entry of a code table after a list of paths has been written: one of the symbol's paths, or what stood there. -/
theorem foldl_set_code (entries : List (Byte × Bits)) (code : Vector CodeEntry 256) (sym : Byte) :
    (sym ∉ entries.map Prod.fst ∧
      (entries.foldl (fun code e => code.set e.1.toNat (.ofBits e.2)) code)[sym.toNat] = code[sym.toNat]) ∨
    ∃ bits, (sym, bits) ∈ entries ∧
      (entries.foldl (fun code e => code.set e.1.toNat (.ofBits e.2)) code)[sym.toNat] = .ofBits bits := by
  induction entries generalizing code with
  | nil => exact .inl ⟨List.not_mem_nil, rfl⟩
  | cons e entries ih =>
    rw [List.foldl_cons]
    rcases ih (code.set e.1.toNat (.ofBits e.2)) with ⟨hmem, hentry⟩ | ⟨bits, hmem, hentry⟩
    · rw [hentry, Vector.getElem_set]
      by_cases hsym : e.1 = sym
      · subst hsym
        exact .inr ⟨e.2, List.mem_cons_self, if_pos rfl⟩
      · rw [if_neg fun h => hsym (BitVec.toNat_inj.1 h)]
        exact .inl ⟨by simp [hmem, Ne.symm hsym], rfl⟩
    · exact .inr ⟨bits, List.mem_cons_of_mem _ hmem, hentry⟩

/-- The code table of a tree: a symbol with no leaf has no codeword, any other has one of its paths. -/
theorem codeOf_cases {s : State} {t : Tree} (h : s.code = t.codeTable) (sym : Byte) :
    (sym ∉ t.leaves.map Prod.snd ∧ s.codeOf sym = .invalid) ∨
      ∃ bits, (sym, bits) ∈ t.paths [] ∧ s.codeOf sym = .ofBits bits := by
  have hcode : s.codeOf sym = t.codeTable[sym.toNat] := by rw [State.codeOf]; simp only [h]
  rw [hcode, ← t.paths_symbols []]
  rcases foldl_set_code (t.paths []) (Vector.replicate 256 .invalid) sym with ⟨hmem, he⟩ | h
  · exact .inl ⟨hmem, he.trans (Vector.getElem_replicate _)⟩
  · exact .inr h

theorem codeOf_valid_iff {s : State} {t : Tree} (h : s.code = t.codeTable) (sym : Byte) :
    (s.codeOf sym).valid = true ↔ sym ∈ t.leaves.map Prod.snd := by
  rcases codeOf_cases h sym with ⟨hmem, he⟩ | ⟨bits, hmem, he⟩ <;> rw [he]
  · simp [CodeEntry.invalid, hmem]
  · rw [← t.paths_symbols []]
    exact iff_of_true rfl (List.mem_map.2 ⟨_, hmem, rfl⟩)

/-- A valid entry holds a path of the tree. -/
theorem codeOf_mem_paths {s : State} {t : Tree} (h : s.code = t.codeTable) {sym : Byte}
    (hv : (s.codeOf sym).valid = true) : (sym, (s.codeOf sym).bits) ∈ t.paths [] := by
  rcases codeOf_cases h sym with ⟨_, he⟩ | ⟨bits, hmem, he⟩ <;> rw [he] at hv ⊢
  · cases hv
  · exact hmem

/-- LEN is the codeword's length, and at most CODE_MAX (R44). -/
theorem State.HasTree.codeOf_len {s : State} {t : Tree} (h : s.HasTree t) (sym : Byte) :
    (s.codeOf sym).len = (s.codeOf sym).bits.length ∧ (s.codeOf sym).len ≤ 255 := by
  rcases codeOf_cases h.code_eq sym with ⟨_, he⟩ | ⟨bits, hmem, he⟩ <;> rw [he]
  · exact ⟨rfl, Nat.zero_le _⟩
  · have hlen : bits.length < 0 + t.height := Tree.length_lt_of_mem_paths hmem
    have hheight := t.height_le_size
    have hsize := h.size_eq
    have hnode := h.nnode_le
    exact ⟨rfl, show bits.length ≤ 255 by omega⟩

/-- Settles O28: a symbol has a leaf in the built tree exactly when it is counted, and the codewords are paths of the tree. -/
theorem builtCodeIsPrefixFree : Obligations.BuiltCodeIsPrefixFree := by
  unfold Obligations.BuiltCodeIsPrefixFree
  intro s hs he hp h1
  obtain ⟨t, tree, hexec, htree, hleaves, _⟩ := exec_build_tree hs he hp h1
  have hsymbols : (tree.leaves.map Prod.snd).Perm s.orderList := by
    refine (hleaves.map Prod.snd).trans (.of_eq ?_)
    rw [List.map_map]
    exact List.map_id _
  refine ⟨t, hexec, fun a => ?_, htree.codeOf_len, fun a b hab ha hb hprefix => hab ?_⟩
  · rw [codeOf_valid_iff htree.code_eq, hsymbols.mem_iff, hs.mem_iff]
  · have ha := codeOf_mem_paths htree.code_eq ha
    have hb := codeOf_mem_paths htree.code_eq hb
    exact congrArg Prod.fst (Tree.paths_prefix_free ha hb hprefix)

/-! ## The tree that `Des` reads (R183) -/

/-- What `Des(b)` has done where it ends well at bit `cur`: the tree it read stands at the indices that were next in NODE, its root
first, and the entries before them are as they were. -/
structure State.Reads (s t : State) (b i cur : Nat) (tree : Tree) : Prop where
  root_eq : i = s.nnode
  nnode_lt : s.nnode < t.nnode
  nnode_le : t.nnode ≤ 511
  lt_cur : b < cur
  cur_le : cur ≤ 8 * s.ilen
  below : ∀ j, j < s.nnode → t.nodeAt j = s.nodeAt j
  holds : t.HoldsTree i tree (List.range' s.nnode (t.nnode - s.nnode))

/-- `Des` at a LEAF record. -/
theorem reads_leaf {s : State} {b : Nat} (sym : Byte) (hn : s.nnode < 511) (hb : ¬ 8 * s.ilen - b < 9) :
    s.Reads ({ s with nnode := s.nnode + 1 }.setNode s.nnode (Node.mkLeaf sym 0)) b s.nnode (b + 9) (.leaf 0 sym) where
  root_eq := rfl
  nnode_lt := Nat.lt_succ_self _
  nnode_le := hn
  lt_cur := by omega
  cur_le := by omega
  below j hj := (State.nodeAt_setNode hn _ j).trans (if_neg hj.ne)
  holds := by
    have hself : ({ s with nnode := s.nnode + 1 }.setNode s.nnode (Node.mkLeaf sym 0)).nodeAt s.nnode =
        Node.mkLeaf sym 0 := (State.nodeAt_setNode hn _ _).trans (if_pos rfl)
    have h := State.HoldsTree.leaf (s := { s with nnode := s.nnode + 1 }.setNode s.nnode (Node.mkLeaf sym 0))
      (Nat.lt_succ_self s.nnode) (by rw [hself]; rfl)
    rw [hself] at h
    rw [State.setNode_nnode, Nat.add_sub_cancel_left]
    exact h

/-- `Des` at an INTERNAL record, after its two subtrees. -/
theorem reads_internal {s u v : State} {b l r cl cr : Nat} {tl tr : Tree} (hn : s.nnode < 511)
    (hl : { s with nnode := s.nnode + 1 }.Reads u (b + 1) l cl tl) (hr : u.Reads v cl r cr tr) (hilen : u.ilen = s.ilen) :
    s.Reads (v.setNode s.nnode (Node.mkInternal l r 0)) b s.nnode cr (.internal 0 tl tr) := by
  obtain ⟨-, hlt, -, hbl, -, hbelow, hholds⟩ := hl
  obtain ⟨-, hlt', hle', hbr, hcr, hbelow', hholds'⟩ := hr
  have hlt : s.nnode + 1 < u.nnode := hlt
  have hholds : u.HoldsTree l tl (List.range' (s.nnode + 1) (u.nnode - (s.nnode + 1))) := hholds
  have hleft : v.HoldsTree l tl (List.range' (s.nnode + 1) (u.nnode - (s.nnode + 1))) :=
    hholds.congr hlt'.le fun j hj => hbelow' j (by rw [List.mem_range'_1] at hj; omega)
  have hindices : List.range' (s.nnode + 1) (u.nnode - (s.nnode + 1)) ++ List.range' u.nnode (v.nnode - u.nnode) =
      List.range' (s.nnode + 1) (v.nnode - (s.nnode + 1)) := by
    have hsum : v.nnode - (s.nnode + 1) = (u.nnode - (s.nnode + 1)) + (v.nnode - u.nnode) := by omega
    have hnext : u.nnode = (s.nnode + 1) + (u.nnode - (s.nnode + 1)) := by omega
    rw [hsum, ← List.range'_append_1, ← hnext]
  refine ⟨rfl, ?_, hle', by omega, hilen ▸ hcr, fun j hj => ?_, ?_⟩
  · rw [State.setNode_nnode]; omega
  · rw [State.nodeAt_setNode hn, if_neg hj.ne, hbelow' j (by omega)]
    exact hbelow j (Nat.lt_succ_of_lt hj)
  · have hfresh : s.nnode ∉ List.range' (s.nnode + 1) (u.nnode - (s.nnode + 1)) ++ List.range' u.nnode (v.nnode - u.nnode) := by
      rw [hindices, List.mem_range'_1]; omega
    have h := hleft.join hholds' hn hfresh (u := v.setNode s.nnode (Node.mkInternal l r 0)) (by rw [State.setNode_nnode]; omega)
      le_rfl rfl
    have hcons : v.nnode - s.nnode = (v.nnode - (s.nnode + 1)) + 1 := by omega
    rw [hindices] at h
    rw [State.setNode_nnode, hcons, List.range'_succ]
    exact h

theorem des_reads {fuel b i cur : Nat} {s t : State} (h : des fuel b s = .ok (i, cur) t) :
    ∃ tree, s.Reads t b i cur tree := by
  induction fuel generalizing b i cur s t with
  | zero => cases h
  | succ fuel ih =>
    rw [des] at h
    rcases takeNode_cases b s with ⟨_, hp⟩ | ⟨_, _, hp⟩ | ⟨_, hn, hp⟩ <;> rw [hp] at h
    · cases h
    · cases h
    · rw [Res.bind_ok] at h
      split at h
      · split at h
        · cases h
        · next hbits =>
          cases h
          exact ⟨_, reads_leaf _ hn hbits⟩
      · obtain ⟨⟨l, cl⟩, u, hu, h⟩ := Res.bind_eq_ok.1 h
        obtain ⟨⟨r, cr⟩, v, hv, h⟩ := Res.bind_eq_ok.1 h
        cases h
        obtain ⟨tl, hl⟩ := ih hu
        obtain ⟨tr, hr⟩ := ih hv
        have hilen : u.ilen = s.ilen := by rw [des_frame _ _ (.of_ok hu)]
        exact ⟨_, reads_internal hn hl hr hilen⟩

/-- Where `Des` raises: MalformedStream or NodeOverflow, at a bit of the input or at its end, with the store in range. -/
theorem des_raises {fuel b n : Nat} {k : Cause} {s t : State} (h : des fuel b s = .raised k n t) (hb : b ≤ 8 * s.ilen)
    (hn : s.nnode ≤ 511) : (k = .malformedStream ∨ k = .nodeOverflow) ∧ n ≤ 8 * s.ilen ∧ t.nnode ≤ 511 := by
  induction fuel generalizing b s with
  | zero => cases h
  | succ fuel ih =>
    rw [des] at h
    rcases takeNode_cases b s with ⟨_, hp⟩ | ⟨_, _, hp⟩ | ⟨hlt, hn, hp⟩ <;> rw [hp] at h
    · cases h; exact ⟨.inl rfl, hb, hn⟩
    · cases h; exact ⟨.inr rfl, hb, hn⟩
    · rw [Res.bind_ok] at h
      split at h
      · split at h
        · cases h; exact ⟨.inl rfl, hb, hn⟩
        · cases h
      · rcases Res.bind_eq_raised.1 h with h | ⟨⟨l, cl⟩, u, hu, h⟩
        · exact ih (s := { s with nnode := s.nnode + 1 }) h hlt hn
        · obtain ⟨tl, hl⟩ := des_reads hu
          have hilen : u.ilen = s.ilen := by rw [des_frame _ _ (.of_ok hu)]
          rcases Res.bind_eq_raised.1 h with h | ⟨r, v, _, h⟩
          · exact hilen ▸ ih h (hilen ▸ hl.cur_le) hl.nnode_le
          · cases h

end Sys2Proof.Machine

/-!
PROOFS of the state obligations, part 3: the legal commands of each phase, what a command does to STATUS (R26, R222), the values of
reset (R49), and the host's port (R22, R23, R27, R29, R30).
-/

namespace Sys2Proof.Machine

/-- Settles O10: in each phase both sides list the same commands; a stream record is no command. -/
theorem legalCommandsByPhase : Obligations.LegalCommandsByPhase := by
  unfold Obligations.LegalCommandsByPhase
  intro st i hi
  obtain ⟨_, _, _, _, codev, phase⟩ := st
  cases i with
  | hdr v | leaf sym | internal | pbit b | padbit => cases hi
  | _ => cases phase <;> simp [Status.permits]

/-- Settles O13: reset is a fixed state. -/
theorem resetValues : Obligations.ResetValues := by
  unfold Obligations.ResetValues
  refine ⟨rfl, rfl, rfl, rfl, rfl, rfl, rfl, rfl, rfl, rfl, rfl, rfl, rfl, rfl, rfl, rfl, rfl, rfl, rfl, rfl, ?_, ?_, ?_, ?_⟩
  · exact State.initial_freqOf Params.default
  · intro i hi
    simp [State.orderAt, State.reset, State.initial, hi]
  · intro i hi
    simp [State.nodeAt, State.reset, State.initial, hi, Node.zero]
  · intro sym
    simp [State.codeOf, State.reset, State.initial, CodeEntry.invalid]

/-! ## STATUS where a command's pseudocode ends -/

/-- Where the pseudocode reaches its last line STATUS is `after`; where it raises, STATUS is still `before` and the cause is one of
R221. -/
structure Res.EndsStatus {α : Type} (r : Res α) (before after : Status) : Prop where
  ok : ∀ {a t}, r = .ok a t → t.status = after
  raised : ∀ {k n t}, r = .raised k n t → k ≠ .none ∧ t.status = before

namespace Res.EndsStatus

theorem of_ok {α : Type} {a : α} {s : State} {before after : Status} (h : s.status = after) :
    (Res.ok a s).EndsStatus before after where
  ok h' := by cases h'; exact h
  raised h' := nomatch h'

theorem of_raised {α : Type} {k : Cause} {n : Nat} {s : State} {before after : Status} (hk : k ≠ .none)
    (h : s.status = before) : (Res.raised k n s : Res α).EndsStatus before after where
  ok h' := nomatch h'
  raised h' := by cases h'; exact ⟨hk, h⟩

theorem of_stuck {α : Type} {f : Fault} {before after : Status} : (Res.stuck f : Res α).EndsStatus before after where
  ok h' := nomatch h'
  raised h' := nomatch h'

/-- A first part that leaves STATUS as it is, and then a second. -/
theorem bind {α β : Type} {r : Res α} {f : α → State → Res β} {before after : Status} (hr : r.EndsStatus before before)
    (hf : ∀ a u, r = .ok a u → u.status = before → (f a u).EndsStatus before after) :
    (r.bind f).EndsStatus before after where
  ok h := by
    obtain ⟨a, u, hu, h⟩ := Res.bind_eq_ok.1 h
    exact (hf a u hu (hr.ok hu)).ok h
  raised h := by
    rcases Res.bind_eq_raised.1 h with h | ⟨a, u, hu, h⟩
    · exact hr.raised h
    · exact (hf a u hu (hr.ok hu)).raised h

end Res.EndsStatus

theorem putBit_endsStatus (b : Bool) (s : State) : (putBit b s).EndsStatus s.status s.status := by
  rcases putBit_cases b s with ⟨_, hp⟩ | ⟨_, _, hp⟩ | ⟨_, _, hp⟩ <;> rw [hp]
  · exact .of_ok rfl
  · exact .of_ok rfl
  · exact .of_raised (by decide) rfl

theorem putBits_endsStatus (bs : Bits) (s : State) : (putBits bs s).EndsStatus s.status s.status := by
  induction bs generalizing s with
  | nil => exact .of_ok rfl
  | cons b bs ih => exact (putBit_endsStatus b s).bind fun _ u _ hu => hu ▸ ih u

theorem putByte_endsStatus (v : Byte) (s : State) : (putByte v s).EndsStatus s.status s.status := by
  rcases putByte_cases v s with ⟨_, hp⟩ | ⟨_, hp⟩ <;> rw [hp]
  · exact .of_ok rfl
  · exact .of_raised (by decide) rfl

theorem addSym_endsStatus (sym : Byte) (s : State) : (addSym sym s).EndsStatus s.status s.status := by
  rcases addSym_cases sym s with ⟨_, hp⟩ | ⟨_, _, _, hp⟩ | ⟨_, _, _, hp⟩ | ⟨_, _, hp⟩ <;> rw [hp]
  · exact .of_raised (by decide) rfl
  · exact .of_stuck
  · exact .of_ok rfl
  · exact .of_ok rfl

theorem addText_endsStatus (text : List Byte) (s : State) : (addText text s).EndsStatus s.status s.status := by
  induction text generalizing s with
  | nil => exact .of_ok rfl
  | cons sym text ih => exact (addSym_endsStatus sym s).bind fun _ u _ hu => hu ▸ ih u

theorem encodeSymbol_endsStatus (sym : Byte) (s : State) : (encodeSymbol sym s).EndsStatus s.status s.status := by
  rcases encodeSymbol_cases sym s with ⟨_, hp⟩ | ⟨_, hp⟩ <;> rw [hp]
  · exact putBits_endsStatus _ s
  · exact .of_raised (by decide) rfl

theorem encodeText_endsStatus (text : List Byte) (s : State) : (encodeText text s).EndsStatus s.status s.status := by
  induction text generalizing s with
  | nil => exact .of_ok rfl
  | cons sym text ih => exact (encodeSymbol_endsStatus sym s).bind fun _ u _ hu => hu ▸ ih u

/-- STATUS after the empty short-circuit (R149, R182). -/
def Status.emptied (st : Status) : Status := { st with empty := true, codev := true, phase := .closed }

/-- STATUS once there is a tree (R140, R183). -/
def Status.withTree (st : Status) (p : Phase) : Status := { st with rootv := true, codev := true, phase := p }

theorem deriveCodes_endsStatus {s : State} {st : Status} (h : s.status = st) : (deriveCodes s).EndsStatus st st := by
  rcases deriveCodes_cases s with ⟨_, _, hd⟩ | ⟨_, hd⟩ <;> rw [hd]
  · exact .of_ok h
  · exact .of_stuck

theorem mergeAll_endsStatus (fuel : Nat) (roots : List Nat) (s : State) :
    (mergeAll fuel roots s).EndsStatus s.status s.status := by
  rcases mergeAll_frame fuel roots (s := s) with ⟨root, t, hm, ht⟩ | hm <;> rw [hm]
  · exact .of_ok (by rw [ht])
  · exact .of_stuck

theorem buildBody_endsStatus (s : State) :
    (buildBody s).EndsStatus s.status (if s.nsym = 0 then s.status.emptied else s.status.withTree .built) := by
  rw [buildBody]
  split
  · exact .of_ok rfl
  · split
    · exact .of_stuck
    · have hleaves : s.withLeaves.status = s.status := by rw [withLeaves_frame]
      refine (hleaves ▸ mergeAll_endsStatus _ _ _ : Res.EndsStatus _ s.status s.status).bind fun root u _ hu => ?_
      exact (deriveCodes_endsStatus (s := { u with root := root }) hu).bind fun _ v _ hv => .of_ok (by rw [State.treeReady_status, hv]; rfl)

theorem cwlkBody_endsStatus (sym : Byte) (s : State) : (cwlkBody sym s).EndsStatus s.status s.status := by
  rw [cwlkBody]
  split
  · exact .of_ok rfl
  · exact .of_raised (by decide) rfl

theorem sertBody_endsStatus (s : State) : (sertBody s).EndsStatus s.status { s.status with phase := .stream } := by
  rw [sertBody.eq_def]
  split
  · exact (putBits_endsStatus _ s.streamOpened).bind fun _ u _ hu => .of_ok (by rw [State.setPhase_status, hu]; rfl)
  · exact .of_stuck

theorem flushPartial_endsStatus (s : State) : (flushPartial s).EndsStatus s.status s.status := by
  rw [flushPartial]
  split
  · exact .of_ok rfl
  · split
    · exact .of_raised (by decide) rfl
    · exact .of_ok rfl

theorem finBody_endsStatus (s : State) : (finBody s).EndsStatus s.status { s.status with phase := .closed } :=
  (flushPartial_endsStatus s).bind fun _ u _ hu => .of_ok (by rw [State.setPhase_status, ← hu]; rfl)

theorem ldhdrBody_endsStatus (s : State) :
    (ldhdrBody s).EndsStatus s.status
      (if s.ilen = 0 then s.status.emptied else { s.status with phase := .hdr }) := by
  rw [ldhdrBody]
  split
  · exact .of_ok rfl
  · rw [loadHeader]
    split
    · exact .of_raised (by decide) rfl
    · exact .of_ok rfl

theorem takeNode_endsStatus (b : Nat) (s : State) : (takeNode b s).EndsStatus s.status s.status := by
  rcases takeNode_cases b s with ⟨_, hp⟩ | ⟨_, _, hp⟩ | ⟨_, _, hp⟩ <;> rw [hp]
  · exact .of_raised (by decide) rfl
  · exact .of_raised (by decide) rfl
  · exact .of_ok rfl

theorem des_endsStatus (fuel b : Nat) (s : State) : (des fuel b s).EndsStatus s.status s.status := by
  induction fuel generalizing b s with
  | zero => exact .of_stuck
  | succ fuel ih =>
    rw [des]
    refine (takeNode_endsStatus b s).bind fun i u _ hu => ?_
    split
    · split
      · exact .of_raised (by decide) hu
      · exact .of_ok hu
    · refine (hu ▸ ih (b + 1) u).bind fun l v _ hv => ?_
      exact (hv ▸ ih l.2 v).bind fun r w _ hw => .of_ok hw

theorem deserBody_endsStatus (s : State) : (deserBody s).EndsStatus s.status (s.status.withTree .payload) := by
  refine (des_endsStatus _ _ { s with nnode := 0 }).bind fun r u _ hu => ?_
  rw [finishTree]
  split
  · exact .of_raised (by decide) hu
  · refine (deriveCodes_endsStatus ?_).bind fun _ v _ hv => .of_ok (by rw [State.treeReady_status, hv]; rfl)
    exact hu

theorem walkFrom_endsStatus (c0 left i c : Nat) (s : State) : (walkFrom c0 left i c s).EndsStatus s.status s.status := by
  induction left generalizing i c with
  | zero =>
    rw [walkFrom]
    split
    · exact .of_stuck
    · split
      · exact .of_ok rfl
      · exact .of_raised (by decide) rfl
  | succ left ih =>
    rw [walkFrom]
    split
    · exact .of_stuck
    · split
      · exact .of_ok rfl
      · exact ih _ _

theorem dec1Body_endsStatus (s : State) : (dec1Body s).EndsStatus s.status s.status :=
  (walkFrom_endsStatus _ _ _ _ s).bind fun _ _ _ hu => .of_ok hu

theorem decodeAll_endsStatus (fuel : Nat) (s : State) : (decodeAll fuel s).EndsStatus s.status s.status := by
  induction fuel generalizing s with
  | zero => exact .of_ok rfl
  | succ fuel ih =>
    rw [decodeAll]
    split
    · refine (walkFrom_endsStatus _ _ _ _ s).bind fun r u _ hu => ?_
      refine (hu ▸ putByte_endsStatus r.1 u).bind fun _ v _ hv => ?_
      exact hv ▸ ih { v with icur := r.2 }
    · exact .of_ok rfl

theorem decallBody_endsStatus (s : State) : (decallBody s).EndsStatus s.status s.status := by
  rw [decallBody]
  split
  · exact .of_stuck
  · split
    · exact .of_raised (by decide) rfl
    · exact decodeAll_endsStatus _ s

/-- STATUS after the last line of a single command. -/
def State.statusAfter (s : State) : Instr → Status
  | .build => if s.nsym = 0 then s.status.emptied else s.status.withTree .built
  | .sert => { s.status with phase := .stream }
  | .fin => { s.status with phase := .closed }
  | .ldhdr => if s.ilen = 0 then s.status.emptied else { s.status with phase := .hdr }
  | .deser => s.status.withTree .payload
  | .nop | .clr | .fadd _ | .faddt | .fcnt _ | .cwlk _ | .enc _ | .enct | .dec1 | .decall | .rewind | .comp | .decomp
  | .hdr _ | .leaf _ | .internal | .pbit _ | .padbit => s.status

theorem commandBody_endsStatus {i : Instr} (hcomp : i ≠ .comp) (hdecomp : i ≠ .decomp) (s : State) :
    (commandBody i s).EndsStatus s.status (s.statusAfter i) := by
  cases i with
  | fadd sym => exact addSym_endsStatus sym s
  | faddt => exact addText_endsStatus _ s
  | build => exact buildBody_endsStatus s
  | cwlk sym => exact cwlkBody_endsStatus sym s
  | sert => exact sertBody_endsStatus s
  | enc sym => exact encodeSymbol_endsStatus sym s
  | enct => exact encodeText_endsStatus _ s
  | fin => exact finBody_endsStatus s
  | ldhdr => exact ldhdrBody_endsStatus s
  | deser => exact deserBody_endsStatus s
  | dec1 => exact dec1Body_endsStatus s
  | decall => exact decallBody_endsStatus s
  | comp => exact absurd rfl hcomp
  | decomp => exact absurd rfl hdecomp
  | nop | clr | fcnt sym | rewind | hdr v | leaf sym | internal | pbit b | padbit => exact .of_ok rfl

theorem State.statusAfter_err (s : State) (i : Instr) : (s.statusAfter i).err = s.status.err := by
  cases i with
  | build => rw [State.statusAfter]; split <;> rfl
  | ldhdr => rw [State.statusAfter]; split <;> rfl
  | _ => rfl

theorem State.statusAfter_phase {i : Instr} (hclr : i ≠ .clr) (hcomp : i ≠ .comp) (hdecomp : i ≠ .decomp) (s : State) :
    (s.statusAfter i).phase = s.phaseAfter i := by
  cases i with
  | clr => exact absurd rfl hclr
  | comp => exact absurd rfl hcomp
  | decomp => exact absurd rfl hdecomp
  | build => rw [State.statusAfter, State.phaseAfter]; split <;> rfl
  | ldhdr => rw [State.statusAfter, State.phaseAfter]; split <;> rfl
  | _ => rfl

/-- Settles O12: pseudocode that raises has not touched STATUS, and pseudocode that ends well raises no ERR. -/
theorem faultKeepsPhase : Obligations.FaultKeepsPhase := by
  unfold Obligations.FaultKeepsPhase
  intro s t i he hi hcomp hdecomp h ht
  by_cases hclr : i = .clr
  · subst hclr
    cases h
    cases ht
  · have hbody := commandBody_endsStatus hcomp hdecomp s
    rw [exec_command hi hclr] at h
    rcases runCommand_cases h with ⟨he', _⟩ | ⟨_, _, rfl⟩ | ⟨_, _, hb⟩ | ⟨_, _, k, n, u, hb, rfl⟩
    · simp [he] at he'
    · exact ⟨rfl, fun hc => nomatch hc⟩
    · rw [hbody.ok hb, State.statusAfter_err, he] at ht
      cases ht
    · obtain ⟨hk, hu⟩ := hbody.raised hb
      exact ⟨by rw [State.raise_status, hu], hk⟩

/-! ## The phase table (R26) -/

/-- COMP that reaches its last line ends in CLOSED, from a state whose EMPTY is 0. -/
theorem compBody_phase {s t : State} (hempty : s.status.empty = false) (h : compBody s = .ok () t) :
    t.status.phase = .closed := by
  obtain ⟨_, u, hu, h⟩ := Res.bind_eq_ok.1 h
  have hus := (addText_endsStatus _ s).ok hu
  obtain ⟨_, v, hv, h⟩ := Res.bind_eq_ok.1 h
  have hvs := (buildBody_endsStatus u).ok hv
  split at h
  · next hve =>
    cases h
    split at hvs
    · rw [hvs]; rfl
    · rw [hvs, hus] at hve
      exact absurd hve (by simp [Status.withTree, hempty])
  · obtain ⟨_, w, _, h⟩ := Res.bind_eq_ok.1 h
    obtain ⟨_, x, _, h⟩ := Res.bind_eq_ok.1 h
    rw [(finBody_endsStatus x).ok h]

theorem decompBody_phase {s t : State} (hempty : s.status.empty = false) (h : decompBody s = .ok () t) :
    t.status.phase = if s.ilen = 0 then .closed else .payload := by
  obtain ⟨_, u, hu, h⟩ := Res.bind_eq_ok.1 h
  have hus := (ldhdrBody_endsStatus s).ok hu
  by_cases hilen : s.ilen = 0
  · rw [if_pos hilen] at hus ⊢
    rw [if_pos (by rw [hus]; rfl)] at h
    cases h
    rw [hus]; rfl
  · rw [if_neg hilen] at hus ⊢
    rw [if_neg (by rw [hus]; simp [hempty])] at h
    obtain ⟨_, v, hv, h⟩ := Res.bind_eq_ok.1 h
    rw [(decallBody_endsStatus v).ok h, (deserBody_endsStatus u).ok hv]
    rfl

theorem commandBody_phase {s t : State} {i : Instr} (hflags : s.status.flagsOk) (hperm : s.status.permits i = true)
    (hclr : i ≠ .clr) (h : commandBody i s = .ok () t) : t.status.phase = s.phaseAfter i := by
  have hcount (hp : s.status.phase = .count) : s.status.empty = false := by
    rw [Status.flagsOk, hp] at hflags
    exact hflags.2.2
  by_cases hcomp : i = .comp
  · subst hcomp
    exact compBody_phase (hcount (by simpa [Status.permits] using hperm)) h
  · by_cases hdecomp : i = .decomp
    · subst hdecomp
      exact decompBody_phase (hcount (by simpa [Status.permits] using hperm)) h
    · rw [(commandBody_endsStatus hcomp hdecomp s).ok h, State.statusAfter_phase hclr hcomp hdecomp]

/-- Settles O11: a command with no fault recorded reaches its last line, or ERR is set. -/
theorem phaseFollowsTable : Obligations.PhaseFollowsTable := by
  unfold Obligations.PhaseFollowsTable
  intro s t i hflags he hi h ht
  by_cases hclr : i = .clr
  · subst hclr
    cases h
    rfl
  · rw [exec_command hi hclr] at h
    rcases runCommand_cases h with ⟨he', _⟩ | ⟨_, _, rfl⟩ | ⟨_, hperm, hb⟩ | ⟨_, _, k, n, u, hb, rfl⟩
    · simp [he] at he'
    · cases ht
    · exact commandBody_phase hflags hperm hclr hb
    · cases ht

/-! ## The host's port (R22, R23) -/

theorem num_append_singleton (s : Bits) (b : Bool) : num (s ++ [b]) = Nat.bit b (num s) := by
  rw [num, List.foldl_append, Nat.bit_val]; rfl

theorem num_lt (s : Bits) : num s < 2 ^ s.length := by
  induction s using List.reverseRecOn with
  | nil => decide
  | append_singleton s b ih =>
    rw [num_append_singleton, List.length_append, List.length_singleton, Nat.bit_val, pow_succ]
    have := b.toNat_le
    omega

/-- Bit `i` of a sequence is bit `length - 1 - i` of its number (R11). -/
theorem testBit_num {s : Bits} {i : Nat} (hi : i < s.length) : (num s).testBit (s.length - 1 - i) = s.getD i false := by
  induction s using List.reverseRecOn with
  | nil => exact absurd hi (Nat.not_lt_zero i)
  | append_singleton s b ih =>
    rw [List.length_append, List.length_singleton] at hi ⊢
    rw [num_append_singleton]
    by_cases hlast : i = s.length
    · subst hlast
      rw [show s.length + 1 - 1 - s.length = 0 by omega, Nat.testBit_bit_zero]
      simp
    · have hi : i < s.length := by omega
      rw [show s.length + 1 - 1 - i = (s.length - 1 - i) + 1 by omega, Nat.testBit_bit_succ, ih hi,
        List.getD_append _ _ _ _ hi]

/-- The 255-bit word of R22, bit by bit: the sequence first, and zeros after its end. -/
theorem codeWord255_spec (s : Bits) :
    codeWord255 s < 2 ^ 255 ∧ ∀ i, i < 255 → (codeWord255 s).testBit (254 - i) = s.getD i false := by
  have hlen : ((s ++ List.replicate Config.codeMax false).take Config.codeMax).length = 255 := by
    rw [List.length_take, List.length_append, List.length_replicate, Config.codeMax]
    omega
  refine ⟨(num_lt _).trans_eq (by rw [hlen]), fun i hi => ?_⟩
  have hbit := testBit_num (hlen.symm ▸ hi)
  rw [hlen] at hbit
  refine hbit.trans ?_
  rw [List.getD_eq_getElem?_getD, List.getD_eq_getElem?_getD, List.getElem?_take_of_lt (show i < Config.codeMax from hi),
    List.getElem?_append]
  split
  · rfl
  · next hs =>
    rw [List.getElem?_replicate, List.getElem?_eq_none (Nat.not_lt.1 hs)]
    split <;> rfl

/-- STATUS in the layout of R27. -/
theorem Status.toNat_toByte (st : Status) :
    st.toByte.toNat = 32 * st.phase.code.toNat + 16 * st.codev.toNat + 8 * st.rootv.toNat + 4 * st.empty.toNat
      + 2 * st.err.toNat + st.busy.toNat := by
  obtain ⟨busy, err, empty, rootv, codev, phase⟩ := st
  cases phase <;> cases busy <;> cases err <;> cases empty <;> cases rootv <;> cases codev <;> rfl

theorem regValue_of_registerMap {s : State} {number value : Nat}
    (h : (number, value) ∈ s.registerMap ∨ (20 ≤ number ∧ value = 0)) : s.regValue number = value := by
  rcases h with h | ⟨hn, rfl⟩
  · simp only [State.registerMap, List.mem_cons, Prod.mk.injEq, List.not_mem_nil, or_false] at h
    rw [← Status.toNat_toByte] at h
    rcases h with ⟨rfl, rfl⟩ | ⟨rfl, rfl⟩ | ⟨rfl, rfl⟩ | ⟨rfl, rfl⟩ | ⟨rfl, rfl⟩ | ⟨rfl, rfl⟩ | ⟨rfl, rfl⟩ | ⟨rfl, rfl⟩ |
      ⟨rfl, rfl⟩ | ⟨rfl, rfl⟩ | ⟨rfl, rfl⟩ | ⟨rfl, rfl⟩ | ⟨rfl, rfl⟩ | ⟨rfl, rfl⟩ | ⟨rfl, rfl⟩ | ⟨rfl, rfl⟩ | ⟨rfl, rfl⟩ |
      ⟨rfl, rfl⟩ | ⟨rfl, rfl⟩ <;> rfl
  · rw [State.regValue.eq_def]
    split
    all_goals omega

/-- With the engine idle, a step is the host's next move. -/
theorem step_host {s : State} {m : HostMove} {rest : List HostMove} (hb : s.status.busy = false) (ha : s.awaited = none)
    (hm : s.hostMoves = m :: rest) (hr : m ≠ .reset) : step s = hostMove m { s with hostMoves := rest } := by
  have hnext : s.resetNext = false := by simp [State.resetNext, hm, hr]
  simp [step, hnext, hb, ha, hostStep, hm]

theorem Status.inputLocked_eq_false_iff (st : Status) :
    st.inputLocked = false ↔ st.phase ≠ .hdr ∧ st.phase ≠ .payload := by
  simp [Status.inputLocked]

/-- A write of ILEN up to IBUF_CAP with the lock open takes effect; any other is ignored (R30, R73). -/
theorem State.writeIlen_eq (s : State) (n : Nat) :
    s.writeIlen n = { s with
      ilen := if n ≤ s.params.ibufCap ∧ s.status.phase ≠ .hdr ∧ s.status.phase ≠ .payload then n else s.ilen } := by
  have hlock := s.status.inputLocked_eq_false_iff
  rw [State.writeIlen]
  cases hl : s.status.inputLocked with
  | true =>
    rw [hl] at hlock
    have hclosed : ¬ (s.status.phase ≠ .hdr ∧ s.status.phase ≠ .payload) := fun h => nomatch hlock.2 h
    simp [hclosed]
  | false => by_cases hn : n ≤ s.params.ibufCap <;> simp [hn, hlock.1 hl, Nat.lt_of_not_le]

/-- A write of a register other than CMD and ILEN has no effect (U19). -/
theorem State.writeReg_ignored {s : State} {number value : Nat} (h0 : number ≠ 0) (h4 : number ≠ 4) :
    s.writeReg number value = s := by
  rw [State.writeReg.eq_def]
  split
  · exact absurd rfl h0
  · exact absurd rfl h4
  · rfl

theorem hostMove_writeIbuf_open {s : State} {a : Nat} {v : Byte} (ha : a < s.params.ibufCap)
    (hl : s.status.inputLocked = false) :
    hostMove (.writeIbuf a v) s = .next { s with ibuf := Memory.write s.ibuf a v } := by
  simp [hostMove, hl, Nat.not_le.2 ha]

theorem hostMove_writeIbuf_locked {s : State} {a : Nat} {v : Byte} (ha : a < s.params.ibufCap)
    (hl : s.status.inputLocked = true) : hostMove (.writeIbuf a v) s = .next s := by
  simp [hostMove, hl, Nat.not_le.2 ha]

theorem hostMove_readIbuf_written {s : State} {a : Nat} {v : Byte} (ha : a < s.params.ibufCap)
    (hv : Memory.read? s.ibuf a = some v) : hostMove (.readIbuf a) s = .next (s.returned (.number v.toNat)) := by
  simp [hostMove, hv, Nat.not_le.2 ha]

theorem hostMove_readIbuf_unwritten {s : State} {a : Nat} (ha : a < s.params.ibufCap)
    (hv : Memory.read? s.ibuf a = none) : hostMove (.readIbuf a) s = .refused .unspecifiedRead := by
  simp [hostMove, hv, Nat.not_le.2 ha]

theorem hostMove_readObuf_output {s : State} {a : Nat} {v : Byte} (ha : a < s.params.obufCap) (ho : a < s.olen)
    (hv : Memory.read? s.obuf a = some v) : hostMove (.readObuf a) s = .next (s.returned (.number v.toNat)) := by
  simp [hostMove, hv, Nat.not_le.2 ha, Nat.not_le.2 ho]

theorem hostMove_readObuf_above {s : State} {a : Nat} (ha : a < s.params.obufCap) (ho : s.olen ≤ a) :
    hostMove (.readObuf a) s = .refused .unspecifiedRead := by
  simp [hostMove, ho, Nat.not_le.2 ha]

/-- Settles O17: each clause is the meaning of one move of the host. -/
theorem hostPortReadsAndWrites : Obligations.HostPortReadsAndWrites := by
  unfold Obligations.HostPortReadsAndWrites
  intro s rest hb ha
  have hstep {m : HostMove} (hm : s.hostMoves = m :: rest) (hr : m ≠ .reset) :
      step s = hostMove m { s with hostMoves := rest } := step_host hb ha hm hr
  refine ⟨fun w hm => ?_, fun n hm => ?_, fun number value hm h0 h4 => ?_, fun a v hm hcap hhdr hpay => ?_,
    fun a v hm hcap hlocked => ?_, fun number value hm hvalue => ?_, fun hm => ?_, fun sym hm => ?_, fun rank hm => ?_,
    fun i hm => ?_, fun sym hm => ?_, fun a hm hcap => ⟨fun v hv => ?_, fun hv => ?_⟩,
    fun a hm hcap => ⟨fun v ha hv => ?_, fun ha => ?_⟩⟩ <;> rw [hstep hm nofun]
  · rw [hostMove, State.writeReg, BitVec.ofNat_toNat, BitVec.setWidth_eq]; rfl
  · exact congrArg Host.Outcome.next (State.writeIlen_eq { s with hostMoves := rest } n)
  · rw [hostMove, State.writeReg_ignored h0 h4]
  · have hopen : s.status.inputLocked = false := s.status.inputLocked_eq_false_iff.2 ⟨hhdr, hpay⟩
    refine ⟨{ s with hostMoves := rest, ibuf := Memory.write s.ibuf a v }, ?_, Memory.read?_write_same _ _ _,
      fun b hb => Memory.read?_write_other _ _ _ _ hb, rfl⟩
    exact hostMove_writeIbuf_open hcap hopen
  · refine hostMove_writeIbuf_locked hcap ?_
    simpa [Status.inputLocked] using hlocked
  · rw [← regValue_of_registerMap hvalue]; rfl
  · exact ⟨codeWord255 s.rcode, rfl, codeWord255_spec s.rcode⟩
  · rfl
  · rfl
  · rfl
  · rfl
  · exact hostMove_readIbuf_written hcap hv
  · exact hostMove_readIbuf_unwritten hcap hv
  · exact hostMove_readObuf_output hcap ha hv
  · exact hostMove_readObuf_above hcap ha

end Sys2Proof.Machine

/-!
PROOFS of the state obligations, part 4: the invariant, kept by every step (R20 to R45). A command that is running meets `State.Running`;
what outlasts a `raise` of it is `State.Held`.
-/

namespace Sys2Proof.Machine

/-! ## The invariant in parts -/

/-- The part of the invariant that a fault does not touch: all but the fault registers and the accumulator. -/
structure State.Held (s : State) : Prop where
  params : s.params.Valid
  freq : s.FreqOk
  mem : s.MemOk
  flags : s.status.flagsOk
  tree : s.TreeOk
  cursor : s.CursorOk
  cmd_zero : s.status.busy = false → s.cmd = 0
  reader_idle : s.reader = .idle
  rcount_le : s.rcount ≤ s.params.countMax
  rlen_le : s.rlen ≤ 255
  rcode_len : s.rcode.length = s.rlen

/-- The invariant while a command runs, or before it, with no fault recorded. -/
structure State.Running (s : State) : Prop extends s.Held where
  err : s.status.err = false
  cause : s.cause = .none
  einfo : s.einfo = 0
  low : s.AccLowZero
  drained : s.status.phase ≠ .stream → s.acc = 0 ∧ s.accn = 0

theorem State.Inv.held {s : State} (h : s.Inv) : s.Held :=
  { h with
    flags := h.status.flags
    cmd_zero := h.status.cmd_zero
    reader_idle := h.status.reader_idle
    rcount_le := h.range.rcount_le
    rlen_le := h.range.rlen_le
    rcode_len := h.range.rcode_len }

theorem State.Inv.running {s : State} (h : s.Inv) (he : s.status.err = false) : s.Running :=
  { h.held with
    err := he
    cause := h.status.cause_iff.2 he
    einfo := h.status.einfo_zero (h.status.cause_iff.2 he)
    low := (h.acc he).1
    drained := (h.acc he).2 }

theorem State.Running.inv {s : State} (h : s.Running) : s.Inv :=
  { h with
    status := { h with cause_iff := iff_of_true h.cause h.err, einfo_zero := fun _ => h.einfo }
    acc := fun _ => ⟨h.low, h.drained⟩
    range := { h with einfo_lt := h.einfo ▸ Nat.two_pow_pos _ } }

/-- What EINFO can hold (R28, R221): a command word, and so a byte; an index of a byte; an index of a bit. -/
theorem Params.Valid.word_fits {p : Params} (h : p.Valid) {n : Nat} (hn : n < 2 ^ 16) : n < 2 ^ (p.aw + 3) :=
  hn.trans_le (Nat.pow_le_pow_right (by decide) (by have := h.aw; omega))

theorem Params.Valid.bit_fits {p : Params} (h : p.Valid) {n bytes : Nat} (hn : n ≤ 8 * bytes)
    (hbytes : bytes ≤ p.ibufCap) : n < 2 ^ (p.aw + 3) := by
  have hcap := h.ibufCap_le
  have hpos := Nat.two_pow_pos p.aw
  rw [pow_add]
  omega

theorem Params.Valid.byte_fits {p : Params} (h : p.Valid) {n : Nat} (hn : n ≤ p.obufCap) : n < 2 ^ (p.aw + 3) := by
  have hcap := h.obufCap_le
  have hpos := Nat.two_pow_pos p.aw
  rw [pow_add]
  omega

/-- The node store and the code table are what they were. -/
theorem State.TreeOk.congr {s t : State} (h : s.TreeOk) (hnodes : t.nodes = s.nodes) (hn : t.nnode = s.nnode)
    (hroot : t.root = s.root) (hcode : t.code = s.code) (hrootv : t.status.rootv = s.status.rootv) : t.TreeOk where
  nnode_le := hn ▸ h.nnode_le
  tree hv := by
    obtain ⟨tree, htree, hsize, hc, hi⟩ := h.tree (hrootv ▸ hv)
    have hstands : s.HasTree tree := ⟨h.nnode_le, htree, hsize, hi, hc⟩
    obtain ⟨-, htree, hsize, hi, hc⟩ := hstands.congr hnodes hn hroot hcode
    exact ⟨tree, htree, hsize, hc, hi⟩
  noTree hv := by rw [hcode, hroot]; exact h.noTree (hrootv ▸ hv)

theorem State.HasTree.treeOk {s u : State} {t : Tree} (h : s.HasTree t) (hnodes : u.nodes = s.nodes)
    (hn : u.nnode = s.nnode) (hroot : u.root = s.root) (hcode : u.code = s.code) (hrootv : u.status.rootv = true) :
    u.TreeOk := by
  have hu : u.HasTree t := h.congr hnodes hn hroot hcode
  exact ⟨hu.nnode_le, fun _ => ⟨t, hu.tree?, hu.size_eq, hu.code_eq, hu.indices⟩, fun hv => by simp [hrootv] at hv⟩

/-- Fault entry (R222) in a state that is held. -/
theorem State.Held.raise {s : State} (h : s.Held) {k : Cause} {n : Nat} (hk : k ≠ .none)
    (hn : n < 2 ^ (s.params.aw + 3)) : (s.raise k n).Inv :=
  { h with
    freq := { h.freq with }
    mem := { h.mem with }
    status := { h with
      flags := h.flags
      cause_iff := iff_of_false hk Bool.true_eq_false.mp
      einfo_zero := fun hc => absurd hc hk }
    tree := h.tree.congr rfl rfl rfl rfl rfl
    acc := fun he => nomatch he
    range := { h with einfo_lt := hn } }

/-! ## Results that keep the invariant -/

/-- Where the pseudocode reaches its last line the invariant holds and no fault is recorded; where it raises, the invariant holds once
the fault is recorded. -/
structure Res.KeepsInv {α : Type} (r : Res α) : Prop where
  ok : ∀ {a t}, r = .ok a t → t.Running
  raised : ∀ {k n t}, r = .raised k n t → (t.raise k n).Inv

namespace Res.KeepsInv

theorem of_ok {α : Type} {a : α} {s : State} (h : s.Running) : (Res.ok a s).KeepsInv where
  ok h' := by cases h'; exact h
  raised h' := nomatch h'

theorem of_raised {α : Type} {k : Cause} {n : Nat} {s : State} (h : (s.raise k n).Inv) :
    (Res.raised k n s : Res α).KeepsInv where
  ok h' := nomatch h'
  raised h' := by cases h'; exact h

theorem of_stuck {α : Type} {f : Fault} : (Res.stuck f : Res α).KeepsInv where
  ok h' := nomatch h'
  raised h' := nomatch h'

theorem bind {α β : Type} {r : Res α} {f : α → State → Res β} (hr : r.KeepsInv)
    (hf : ∀ a u, r = .ok a u → u.Running → (f a u).KeepsInv) : (r.bind f).KeepsInv where
  ok h := by
    obtain ⟨a, u, hu, h⟩ := Res.bind_eq_ok.1 h
    exact (hf a u hu (hr.ok hu)).ok h
  raised h := by
    rcases Res.bind_eq_raised.1 h with h | ⟨a, u, hu, h⟩
    · exact hr.raised h
    · exact (hf a u hu (hr.ok hu)).raised h

end Res.KeepsInv

/-! ## The frequency table -/

theorem State.Running.withTable {s t : State} (h : s.Running) (hfreq : t.FreqOk)
    (ht : t = { s with freq := t.freq, order := t.order, nsym := t.nsym, total := t.total }) : t.Running := by
  rw [ht] at hfreq ⊢
  exact { h with freq := hfreq, mem := { h.mem with }, tree := h.tree.congr rfl rfl rfl rfl rfl }

theorem addSym_keepsInv (sym : Byte) {s : State} (h : s.Running) : (addSym sym s).KeepsInv := by
  have hfreq {t : State} (ht : addSym sym s = .ok () t) : t.FreqOk := (addSym_tableGrows (.of_ok ht)).freqOk h.freq
  rcases addSym_cases sym s with ⟨_, hp⟩ | ⟨_, _, _, hp⟩ | ⟨_, _, _, hp⟩ | ⟨_, _, hp⟩ <;> rw [hp]
  · exact .of_raised (h.raise (by decide) (h.params.word_fits (by omega)))
  · exact .of_stuck
  · exact .of_ok (h.withTable (hfreq hp) rfl)
  · exact .of_ok (h.withTable (hfreq hp) rfl)

theorem addText_keepsInv (text : List Byte) {s : State} (h : s.Running) : (addText text s).KeepsInv := by
  induction text generalizing s with
  | nil => exact .of_ok h
  | cons sym text ih => exact (addSym_keepsInv sym h).bind fun _ _ _ hu => ih hu

/-- No count is above TOTAL, which is in range (R133). -/
theorem State.FreqOk.freqOf_le {s : State} (h : s.FreqOk) (sym : Byte) : s.freqOf sym ≤ s.params.countMax := by
  have hmem : s.freqOf sym ∈ s.freq.toList := Vector.mem_toList_iff.2 (Vector.getElem_mem _)
  exact (List.le_sum_of_mem hmem).trans (h.total_eq ▸ h.total_le)

theorem fcnt_keepsInv (sym : Byte) {s : State} (h : s.Running) :
    (Res.ok () { s with rcount := s.freqOf sym }).KeepsInv :=
  .of_ok { h with
    freq := { h.freq with }
    mem := { h.mem with }
    tree := h.tree.congr rfl rfl rfl rfl rfl
    rcount_le := h.freq.freqOf_le sym }

/-! ## The output -/

/-- A byte written into OBUF, with OLEN at most one past the written bytes. -/
theorem State.MemOk.write {s : State} (h : s.MemOk) {a n : Nat} (v : Byte) (ha : a < s.params.obufCap)
    (hn : n ≤ s.params.obufCap) (hbelow : ∀ x, x < n → x < s.olen ∨ x = a) :
    { s with obuf := Memory.write s.obuf a v, olen := n }.MemOk :=
  { h with
    obuf_wf := Memory.write_wf a v h.obuf_wf
    obuf_in := fun c hc => by
      rcases Memory.mem_write hc with rfl | hc
      · exact ha
      · exact h.obuf_in c hc
    olen_le := hn
    written := fun x hx => by
      rw [Memory.read?_write]
      split
      · rfl
      · next hxa => exact h.written x ((hbelow x hx).resolve_right hxa) }

theorem State.MemOk.append {s : State} (h : s.MemOk) (v : Byte) (hroom : s.olen < s.params.obufCap) :
    { s with obuf := Memory.write s.obuf s.olen v, olen := s.olen + 1 }.MemOk :=
  h.write v hroom hroom fun _ _ => by omega

theorem bits8_eq (v : Byte) : bits8 v = (List.range 8).map fun i => v.getLsbD (7 - i) := rfl

/-- R36 bit by bit: bit `7 - i` of ACC is 0 for every place `i` from ACCN on. -/
theorem accLowZero_iff (s : State) :
    s.AccLowZero ↔ ∀ i, s.accn.toNat ≤ i → i < 8 → s.acc.getLsbD (7 - i) = false := by
  rw [State.AccLowZero, bits8_eq]
  constructor
  · intro h i hn hi
    refine h _ (List.mem_iff_getElem.2 ⟨i - s.accn.toNat, by simp; omega, ?_⟩)
    simp [Nat.add_sub_of_le hn]
  · intro h b hb
    obtain ⟨i, hi, rfl⟩ := List.mem_iff_getElem.1 hb
    simp only [List.length_drop, List.length_map, List.length_range] at hi
    simp only [List.getElem_drop, List.getElem_map, List.getElem_range]
    exact h _ (Nat.le_add_right _ _) (by omega)

/-- Nothing waits in ACC (R36). -/
theorem accLowZero_of_zero {s : State} (h : s.acc = 0) : s.AccLowZero := by
  rw [accLowZero_iff]
  intro i _ _
  rw [h]
  exact BitVec.getLsbD_zero

theorem acc_eq_zero {s : State} (h : s.AccLowZero) (hn : s.accn = 0) : s.acc = 0 := by
  rw [accLowZero_iff] at h
  refine BitVec.eq_of_getLsbD_eq fun i hi => ?_
  have hbit := h (7 - i) (by simp [hn]) (by omega)
  rw [show 7 - (7 - i) = i by omega] at hbit
  exact hbit.trans BitVec.getLsbD_zero.symm

/-- Placing a bit in ACC (R77). -/
theorem accLowZero_place {s : State} (h : s.AccLowZero) (b : Bool) (hn : s.accn ≠ 7) :
    { s with acc := s.accWith b, accn := s.accn + 1 }.AccLowZero := by
  have hlt : s.accn.toNat < 7 := by bv_omega
  have hsucc : (s.accn + 1).toNat = s.accn.toNat + 1 := by bv_omega
  rw [accLowZero_iff] at h ⊢
  intro i hi hi8
  have hi : s.accn.toNat + 1 ≤ i := hsucc ▸ hi
  show (s.accWith b).getLsbD (7 - i) = false
  rw [State.accWith, BitVec.getLsbD_or, h i (by omega) hi8, BitVec.getLsbD_shiftLeft]
  simp [show 7 - i < 7 - s.accn.toNat by omega]

/-- What a bit writer keeps: the memories, and R36 where it ends well; an output index or a symbol is reported where it raises. -/
structure Res.KeepsOutput {α : Type} (r : Res α) : Prop where
  ok : ∀ {a t}, r = .ok a t → t.MemOk ∧ t.AccLowZero
  raised : ∀ {k n t}, r = .raised k n t → t.MemOk ∧ (n ≤ t.params.obufCap ∨ n < 2 ^ 16)

namespace Res.KeepsOutput

theorem of_ok {α : Type} {a : α} {s : State} (hm : s.MemOk) (hl : s.AccLowZero) : (Res.ok a s).KeepsOutput where
  ok h' := by cases h'; exact ⟨hm, hl⟩
  raised h' := nomatch h'

theorem of_raised {α : Type} {k : Cause} {n : Nat} {s : State} (hm : s.MemOk)
    (hn : n ≤ s.params.obufCap ∨ n < 2 ^ 16) : (Res.raised k n s : Res α).KeepsOutput where
  ok h' := nomatch h'
  raised h' := by cases h'; exact ⟨hm, hn⟩

theorem bind {α β : Type} {r : Res α} {f : α → State → Res β} (hr : r.KeepsOutput)
    (hf : ∀ a u, u.MemOk → u.AccLowZero → (f a u).KeepsOutput) : (r.bind f).KeepsOutput where
  ok h := by
    obtain ⟨a, u, hu, h⟩ := Res.bind_eq_ok.1 h
    obtain ⟨hm, hl⟩ := hr.ok hu
    exact (hf a u hm hl).ok h
  raised h := by
    rcases Res.bind_eq_raised.1 h with h | ⟨a, u, hu, h⟩
    · exact hr.raised h
    · obtain ⟨hm, hl⟩ := hr.ok hu
      exact (hf a u hm hl).raised h

end Res.KeepsOutput

theorem putBit_keepsOutput (b : Bool) {s : State} (hm : s.MemOk) (hl : s.AccLowZero) : (putBit b s).KeepsOutput := by
  rcases putBit_cases b s with ⟨hn, hp⟩ | ⟨_, hroom, hp⟩ | ⟨_, _, hp⟩ <;> rw [hp]
  · exact .of_ok { hm with } (accLowZero_place hl b hn)
  · exact .of_ok { hm.append _ hroom with } (accLowZero_of_zero rfl)
  · exact .of_raised { hm with } (.inl hm.olen_le)

theorem putBits_keepsOutput (bs : Bits) {s : State} (hm : s.MemOk) (hl : s.AccLowZero) :
    (putBits bs s).KeepsOutput := by
  induction bs generalizing s with
  | nil => exact .of_ok hm hl
  | cons b bs ih => exact (putBit_keepsOutput b hm hl).bind fun _ _ hm hl => ih hm hl

theorem encodeText_keepsOutput (text : List Byte) {s : State} (hm : s.MemOk) (hl : s.AccLowZero) :
    (encodeText text s).KeepsOutput := by
  induction text generalizing s with
  | nil => exact .of_ok hm hl
  | cons sym text ih =>
    refine Res.KeepsOutput.bind ?_ fun _ _ hm hl => ih hm hl
    rcases encodeSymbol_cases sym s with ⟨_, hp⟩ | ⟨_, hp⟩ <;> rw [hp]
    · exact putBits_keepsOutput _ hm hl
    · exact .of_raised hm (.inr (by omega))

/-- The output registers and OBUF have changed, and the memories' part is known. -/
theorem State.Held.withOutput {s t : State} (h : s.Held) (hm : t.MemOk)
    (ht : t = { s with obuf := t.obuf, olen := t.olen, acc := t.acc, accn := t.accn }) : t.Held := by
  rw [ht] at hm ⊢
  exact { h with freq := { h.freq with }, mem := hm, tree := h.tree.congr rfl rfl rfl rfl rfl }

/-- A bit writer that raises in a state that is held. -/
theorem Res.KeepsOutput.raise_inv {α : Type} {r : Res α} {s u : State} {k : Cause} {n : Nat} (hr : r.KeepsOutput)
    (h : s.Held) (hk : k ≠ .none)
    (hu : u = { s with obuf := u.obuf, olen := u.olen, acc := u.acc, accn := u.accn }) (hraised : r = .raised k n u) :
    (u.raise k n).Inv := by
  obtain ⟨hm, hn⟩ := hr.raised hraised
  have hheld := h.withOutput hm hu
  exact hheld.raise hk (hn.elim hheld.params.byte_fits hheld.params.word_fits)

/-- ENCT, and with a text of one symbol ENC, in phase STREAM. -/
theorem encodeText_keepsInv (text : List Byte) {s : State} (h : s.Running) (hp : s.status.phase = .stream) :
    (encodeText text s).KeepsInv := by
  have hout := encodeText_keepsOutput text h.mem h.low
  refine ⟨fun ht => ?_, fun ht => ?_⟩
  · obtain ⟨hm, hl⟩ := hout.ok ht
    rw [encodeText_frame text (.of_ok ht)] at hm hl ⊢
    exact { h with
      freq := { h.freq with }
      mem := hm
      tree := h.tree.congr rfl rfl rfl rfl rfl
      low := hl
      drained := fun hne => absurd hp hne }
  · exact hout.raise_inv h.toHeld ((encodeText_endsStatus text s).raised ht).1 (encodeText_frame text (.of_raised ht)) ht

theorem encodeText_singleton (sym : Byte) (s : State) : encodeText [sym] s = encodeSymbol sym s := by
  show (encodeSymbol sym s).bind _ = _
  cases encodeSymbol sym s <;> rfl

/-- ENC in phase STREAM. -/
theorem encodeSymbol_keepsInv (sym : Byte) {s : State} (h : s.Running) (hp : s.status.phase = .stream) :
    (encodeSymbol sym s).KeepsInv := encodeText_singleton sym s ▸ encodeText_keepsInv [sym] h hp

/-! ## SERT and FIN -/

/-- Outside the decoder's phases every input cursor is 0 (R25, R33). -/
theorem State.CursorOk.zeros {s : State} (h : s.CursorOk) (hl : s.status.inputLocked = false) :
    s.icur = 0 ∧ s.pstart = 0 ∧ s.pend = 0 := by
  rw [State.CursorOk.eq_def] at h
  split at h
  · exact h
  · exact h
  · exact h
  · exact h
  · next hp => simp [Status.inputLocked, hp] at hl
  · next hp => simp [Status.inputLocked, hp] at hl

theorem Status.flagsOk_of_built {st : Status} (h : st.flagsOk) (hp : st.phase = .built) :
    { st with phase := .stream }.flagsOk := by
  rw [Status.flagsOk, hp] at h
  exact h

theorem Status.flagsOk_of_stream {st : Status} (h : st.flagsOk) (hp : st.phase = .stream) :
    { st with phase := .closed }.flagsOk := by
  rw [Status.flagsOk, hp] at h
  obtain ⟨hrootv, hcodev, hempty⟩ := h
  exact ⟨hcodev, by rw [hempty, hrootv]; rfl⟩

theorem Status.rootv_of_built {st : Status} (h : st.flagsOk) (hp : st.phase = .built) : st.rootv = true := by
  rw [Status.flagsOk, hp] at h
  exact h.1

theorem sertBody_keepsInv {s : State} (h : s.Running) (hp : s.status.phase = .built) : (sertBody s).KeepsInv := by
  obtain ⟨t, htree, -⟩ := h.tree.tree (Status.rootv_of_built h.flags hp)
  have hopen : s.streamOpened.MemOk :=
    { h.mem.write 0x00 (a := 0) (n := 1) h.params.obufCap_pos h.params.obufCap_pos fun _ _ => by omega with }
  have hout := putBits_keepsOutput t.ser hopen (accLowZero_of_zero rfl)
  have hends := putBits_endsStatus t.ser s.streamOpened
  rw [sertBody.eq_def, htree]
  refine ⟨fun ht => ?_, fun ht => ?_⟩
  · obtain ⟨_, u, hu, ht⟩ := Res.bind_eq_ok.1 ht
    cases ht
    obtain ⟨hm, hl⟩ := hout.ok hu
    have hframe : u = { s with obuf := u.obuf, olen := u.olen, acc := u.acc, accn := u.accn } :=
      putBits_frame (s := s.streamOpened) _ (.of_ok hu)
    rw [hframe] at hm hl ⊢
    exact { h with
      freq := { h.freq with }
      mem := { hm with }
      flags := Status.flagsOk_of_built h.flags hp
      tree := h.tree.congr rfl rfl rfl rfl rfl
      cursor := h.cursor.zeros (by simp [Status.inputLocked, hp])
      low := hl
      drained := fun hne => absurd rfl hne }
  · rcases Res.bind_eq_raised.1 ht with ht | ⟨_, _, _, ht⟩
    · exact hout.raise_inv h.toHeld (hends.raised ht).1 (putBits_frame (s := s.streamOpened) _ (.of_raised ht)) ht
    · cases ht

/-- What FIN's flush can do (R168): nothing waits, or OBUF is full, or the waiting bits are written. -/
theorem flushPartial_cases (s : State) :
    (s.accn = 0 ∧ flushPartial s = .ok () s) ∨
    (s.accn ≠ 0 ∧ s.params.obufCap ≤ s.olen ∧ flushPartial s = .raised .outputOverflow s.olen s) ∨
    (s.accn ≠ 0 ∧ s.olen < s.params.obufCap ∧ flushPartial s =
      .ok () { s with obuf := Memory.write s.obuf s.olen s.acc, olen := s.olen + 1, acc := 0, accn := 0 }) := by
  by_cases hn : s.accn = 0#3
  · exact .inl ⟨hn, if_pos hn⟩
  · by_cases ho : s.params.obufCap ≤ s.olen
    · exact .inr (.inl ⟨hn, ho, by rw [flushPartial, if_neg hn, if_pos ho]⟩)
    · exact .inr (.inr ⟨hn, by omega, by rw [flushPartial, if_neg hn, if_neg ho]; rfl⟩)

/-- FIN's last line, from a state of phase STREAM in which nothing waits. -/
theorem State.Running.finish {s : State} (h : s.Running) (hp : s.status.phase = .stream) (hacc : s.acc = 0)
    (haccn : s.accn = 0) (v : Byte) (p : BitVec 3) : ({ s.writeObuf 0 v with pad := p }.setPhase .closed).Running :=
  { h with
    freq := { h.freq with }
    mem := { h.mem.write v h.params.obufCap_pos h.mem.olen_le (fun _ hx => .inl hx) with }
    flags := Status.flagsOk_of_stream h.flags hp
    tree := h.tree.congr rfl rfl rfl rfl rfl
    cursor := h.cursor.zeros (by simp [Status.inputLocked, hp])
    drained := fun _ => ⟨hacc, haccn⟩ }

theorem finBody_keepsInv {s : State} (h : s.Running) (hp : s.status.phase = .stream) : (finBody s).KeepsInv := by
  rw [finBody]
  rcases flushPartial_cases s with ⟨hn, hf⟩ | ⟨_, _, hf⟩ | ⟨_, hroom, hf⟩ <;> rw [hf]
  · exact .of_ok (h.finish hp (acc_eq_zero h.low hn) hn _ _)
  · exact .of_raised (h.raise (by decide) (h.params.byte_fits h.mem.olen_le))
  · have hflushed : { s with
        obuf := Memory.write s.obuf s.olen s.acc, olen := s.olen + 1, acc := 0, accn := 0 }.Running :=
      { h with
        freq := { h.freq with }
        mem := { h.mem.append s.acc hroom with }
        tree := h.tree.congr rfl rfl rfl rfl rfl
        low := accLowZero_of_zero rfl
        drained := fun _ => ⟨rfl, rfl⟩ }
    exact .of_ok (hflushed.finish hp rfl rfl _ _)

/-! ## BUILD and CWLK -/

theorem State.MemOk.noOutput {s : State} (h : s.MemOk) : { s with olen := 0 }.MemOk :=
  { h with
    olen_le := Nat.zero_le _
    written := fun a ha => absurd ha (Nat.not_lt_zero a) }

/-- Before there is a tree no flag is set (R26, R27). -/
theorem Status.flags_unset {st : Status} (h : st.flagsOk) (hp : st.phase = .count ∨ st.phase = .hdr) :
    st.rootv = false ∧ st.codev = false ∧ st.empty = false := by
  rcases hp with hp | hp <;> (rw [Status.flagsOk, hp] at h; exact h)

/-- The empty short-circuit (R149, R182). -/
theorem State.Running.emptyClosed {s : State} (h : s.Running) (hp : s.status.phase = .count) : s.emptyClosed.Running := by
  obtain ⟨hrootv, -, -⟩ := Status.flags_unset h.flags (.inl hp)
  exact { h with
    freq := { h.freq with }
    mem := { h.mem.noOutput with }
    flags := ⟨rfl, by rw [State.emptyClosed_status, hrootv]; rfl⟩
    tree := h.tree.congr rfl rfl rfl rfl rfl
    cursor := h.cursor.zeros (by simp [Status.inputLocked, hp])
    drained := fun _ => h.drained (by rw [hp]; decide) }

theorem buildBody_keepsInv {s : State} (h : s.Running) (hp : s.status.phase = .count) : (buildBody s).KeepsInv := by
  by_cases h0 : s.nsym = 0
  · rw [buildBody, if_pos h0]
    exact .of_ok (h.emptyClosed hp)
  · obtain ⟨t, tree, hb, htree, -, -, hstatus, holen⟩ := buildBody_tree h0 h.freq.nsym_le
    have hframe := buildBody_frame (.of_ok hb)
    obtain ⟨-, -, hempty⟩ := Status.flags_unset h.flags (.inl hp)
    rw [holen, hstatus] at hframe
    have htreeOk : t.TreeOk := htree.treeOk rfl rfl rfl rfl (by rw [hstatus])
    rw [hb]
    refine .of_ok ?_
    rw [hframe] at htreeOk ⊢
    exact { h with
      freq := { h.freq with }
      mem := { h.mem with }
      flags := ⟨rfl, rfl, hempty⟩
      tree := htreeOk
      cursor := h.cursor.zeros (by simp [Status.inputLocked, hp])
      drained := fun _ => h.drained (by rw [hp]; decide) }

theorem State.TreeOk.codeOf_len {s : State} (h : s.TreeOk) (sym : Byte) :
    (s.codeOf sym).len = (s.codeOf sym).bits.length ∧ (s.codeOf sym).len ≤ 255 := by
  cases hv : s.status.rootv with
  | true =>
    obtain ⟨tree, htree, hsize, hcode, hindices⟩ := h.tree hv
    exact State.HasTree.codeOf_len ⟨h.nnode_le, htree, hsize, hindices, hcode⟩ sym
  | false =>
    obtain ⟨hcode, -⟩ := h.noTree hv
    simp [State.codeOf, hcode, CodeEntry.invalid]

theorem cwlkBody_keepsInv (sym : Byte) {s : State} (h : s.Running) : (cwlkBody sym s).KeepsInv := by
  rw [cwlkBody]
  obtain ⟨hlen, hle⟩ := h.tree.codeOf_len sym
  split
  · exact .of_ok { h with
      freq := { h.freq with }
      mem := { h.mem with }
      tree := h.tree.congr rfl rfl rfl rfl rfl
      rlen_le := hle
      rcode_len := hlen.symm }
  · exact .of_raised (h.raise (by decide) (h.params.word_fits (by omega)))

/-! ## LDHDR and DESER -/

theorem ldhdrBody_keepsInv {s : State} (h : s.Running) (hp : s.status.phase = .count) : (ldhdrBody s).KeepsInv := by
  rw [ldhdrBody]
  split
  · exact .of_ok (h.emptyClosed hp)
  · next hilen =>
    rw [loadHeader]
    split
    · exact .of_raised (h.raise (by decide) (h.params.word_fits (by omega)))
    · have hunset := Status.flags_unset h.flags (.inl hp)
      obtain ⟨-, hpstart, hpend⟩ := h.cursor.zeros (by simp [Status.inputLocked, hp])
      exact .of_ok { h with
        freq := { h.freq with }
        mem := { h.mem with }
        flags := hunset
        tree := h.tree.congr rfl rfl rfl rfl rfl
        cursor := ⟨rfl, hpstart, hpend, Nat.one_le_iff_ne_zero.2 hilen⟩
        drained := fun _ => h.drained (by rw [hp]; decide) }

/-- While there is no tree, NODE and NNODE may hold anything in range (R183, U17). -/
theorem State.Running.withNodes {s t : State} (h : s.Running) (hrootv : s.status.rootv = false) (hn : t.nnode ≤ 511)
    (ht : t = { s with nodes := t.nodes, nnode := t.nnode }) : t.Running := by
  rw [ht] at hn ⊢
  exact { h with
    freq := { h.freq with }
    mem := { h.mem with }
    tree := ⟨hn, fun hv => by simp [hrootv] at hv, fun _ => h.tree.noTree hrootv⟩ }

theorem finishTree_keepsInv {s u : State} {b i cur : Nat} {tree : Tree} (h : u.Running) (hp : u.status.phase = .hdr)
    (hs : s.nnode = 0) (hilen : u.ilen = s.ilen) (hr : s.Reads u b i cur tree) : (finishTree i cur u).KeepsInv := by
  obtain ⟨-, -, hn, -, hcur, -, hholds⟩ := hr
  rw [← hilen] at hcur
  rw [hs, Nat.sub_zero, ← List.range_eq_range'] at hholds
  obtain ⟨-, -, hempty⟩ := Status.flags_unset h.flags (.inr hp)
  rw [finishTree]
  split
  · exact .of_raised (h.raise (by decide) (h.params.bit_fits hcur h.mem.ilen_le))
  · next hpad =>
    obtain ⟨hd, htree⟩ := deriveCodes_of_holds
      (s := { u with root := i, icur := cur, pstart := cur, pend := 8 * u.ilen - u.pad.toNat, olen := 0 })
      (hholds.congr le_rfl fun _ _ => rfl) hn .rfl
    rw [hd]
    exact .of_ok { h with
      freq := { h.freq with }
      mem := { h.mem.noOutput with }
      flags := ⟨rfl, rfl, hempty⟩
      tree := htree.treeOk rfl rfl rfl rfl rfl
      cursor := show cur ≤ cur ∧ cur ≤ 8 * u.ilen - u.pad.toNat ∧ 8 * u.ilen - u.pad.toNat + u.pad.toNat = 8 * u.ilen by
        omega
      drained := fun _ => h.drained (by rw [hp]; decide) }

theorem des_keepsInv {fuel b : Nat} {s : State} (h : s.Running) (hp : s.status.phase = .hdr) (hb : b ≤ 8 * s.ilen) :
    (des fuel b { s with nnode := 0 }).KeepsInv := by
  obtain ⟨hrootv, -, -⟩ := Status.flags_unset h.flags (.inr hp)
  have hframe {t : State} (ht : (des fuel b { s with nnode := 0 }).EndsIn t) :
      t = { s with nodes := t.nodes, nnode := t.nnode } := des_frame (s := { s with nnode := 0 }) _ _ ht
  refine ⟨fun {a t} ht => ?_, fun ht => ?_⟩
  · obtain ⟨_, hr⟩ := des_reads (i := a.1) (cur := a.2) ht
    exact h.withNodes hrootv hr.nnode_le (hframe (.of_ok ht))
  · obtain ⟨hk, hn, hnode⟩ := des_raises ht hb (Nat.zero_le _)
    have hrunning := h.withNodes hrootv hnode (hframe (.of_raised ht))
    refine hrunning.raise (by rcases hk with rfl | rfl <;> decide) ?_
    rw [hframe (.of_raised ht)]
    exact h.params.bit_fits hn h.mem.ilen_le

theorem deserBody_keepsInv {s : State} (h : s.Running) (hp : s.status.phase = .hdr) : (deserBody s).KeepsInv := by
  have hcursor := h.cursor
  rw [State.CursorOk, hp] at hcursor
  obtain ⟨hicur, -, -, hilen⟩ := hcursor
  refine (des_keepsInv h hp (by omega)).bind fun r u hu hrunning => ?_
  obtain ⟨tree, hr⟩ := des_reads (i := r.1) (cur := r.2) hu
  have hframe : u = { s with nodes := u.nodes, nnode := u.nnode } := des_frame (s := { s with nnode := 0 }) _ _ (.of_ok hu)
  exact finishTree_keepsInv hrunning (by rw [hframe]; exact hp) rfl (by rw [hframe]) hr

/-! ## DEC1, DECALL and REWIND -/

/-- `Walk1` ends at a bit between the codeword's start and PEND (R185). -/
theorem walkFrom_ok {c0 left i c : Nat} {s t : State} {r : Byte × Nat} (h : walkFrom c0 left i c s = .ok r t) :
    t = s ∧ c ≤ r.2 ∧ r.2 ≤ c + left := by
  induction left generalizing i c with
  | zero =>
    rw [walkFrom] at h
    split at h
    · cases h
    · split at h
      · cases h; exact ⟨rfl, le_rfl, le_rfl⟩
      · cases h
  | succ left ih =>
    rw [walkFrom] at h
    split at h
    · cases h
    · split at h
      · cases h; exact ⟨rfl, le_rfl, Nat.le_add_right _ _⟩
      · obtain ⟨ht, hlow, hhigh⟩ := ih h
        exact ⟨ht, by omega, by omega⟩

/-- `Walk1` raises MalformedStream at the codeword's start (R185). -/
theorem walkFrom_raised {c0 left i c n : Nat} {s t : State} {k : Cause} (h : walkFrom c0 left i c s = .raised k n t) :
    t = s ∧ k = .malformedStream ∧ n = c0 := by
  induction left generalizing i c with
  | zero =>
    rw [walkFrom] at h
    split at h
    · cases h
    · split at h
      · cases h
      · cases h; exact ⟨rfl, rfl, rfl⟩
  | succ left ih =>
    rw [walkFrom] at h
    split at h
    · cases h
    · split at h
      · cases h
      · exact ih h

/-- The cursors in phase PAYLOAD (R33). -/
theorem State.CursorOk.payload {s : State} (h : s.CursorOk) (hp : s.status.phase = .payload) :
    s.pstart ≤ s.icur ∧ s.icur ≤ s.pend ∧ s.pend + s.pad.toNat = 8 * s.ilen := by
  rw [State.CursorOk, hp] at h
  exact h

/-- The cursor moves inside the payload. -/
theorem State.Running.withCursor {s : State} (h : s.Running) (hp : s.status.phase = .payload) (sym : Byte) {c : Nat}
    (hlow : s.pstart ≤ c) (hhigh : c ≤ s.pend) : { s with rsym := sym, icur := c }.Running := by
  obtain ⟨-, -, hpend⟩ := h.cursor.payload hp
  refine { h with
    freq := { h.freq with }
    mem := { h.mem with }
    tree := h.tree.congr rfl rfl rfl rfl rfl
    cursor := ?_ }
  rw [State.CursorOk.eq_def]
  simp only [hp]
  exact ⟨hlow, hhigh, hpend⟩

/-- `Walk1` from the cursor. -/
theorem walk1_keepsInv {s : State} (h : s.Running) (hp : s.status.phase = .payload) : (walk1 s.icur s).KeepsInv := by
  obtain ⟨-, hicur, hpend⟩ := h.cursor.payload hp
  refine ⟨fun ht => ?_, fun ht => ?_⟩
  · rw [(walkFrom_ok ht).1]; exact h
  · obtain ⟨rfl, rfl, rfl⟩ := walkFrom_raised ht
    exact h.raise (by decide) (h.params.bit_fits (by omega) h.mem.ilen_le)

theorem dec1Body_keepsInv {s : State} (h : s.Running) (hp : s.status.phase = .payload) : (dec1Body s).KeepsInv := by
  obtain ⟨hpstart, hicur, -⟩ := h.cursor.payload hp
  refine (walk1_keepsInv h hp).bind fun r u hu _ => ?_
  obtain ⟨rfl, hlow, hhigh⟩ := walkFrom_ok hu
  exact .of_ok (h.withCursor hp r.1 (by omega) (by omega))

theorem putByte_keepsInv (v : Byte) {s : State} (h : s.Running) : (putByte v s).KeepsInv := by
  rcases putByte_cases v s with ⟨hroom, hb⟩ | ⟨_, hb⟩ <;> rw [hb]
  · exact .of_ok { h with
      freq := { h.freq with }
      mem := h.mem.append v hroom
      tree := h.tree.congr rfl rfl rfl rfl rfl }
  · exact .of_raised (h.raise (by decide) (h.params.byte_fits h.mem.olen_le))

theorem decodeAll_keepsInv (fuel : Nat) {s : State} (h : s.Running) (hp : s.status.phase = .payload) :
    (decodeAll fuel s).KeepsInv := by
  induction fuel generalizing s with
  | zero => exact .of_ok h
  | succ fuel ih =>
    rw [decodeAll]
    split
    · obtain ⟨hpstart, hicur, -⟩ := h.cursor.payload hp
      refine (walk1_keepsInv h hp).bind fun r u hu _ => ?_
      obtain ⟨rfl, hlow, hhigh⟩ := walkFrom_ok hu
      refine (putByte_keepsInv r.1 h).bind fun _ v hv hrunning => ?_
      have hframe : v = { u with obuf := v.obuf, olen := v.olen } := by
        rcases putByte_cases r.1 u with ⟨_, hb⟩ | ⟨_, hb⟩ <;> rw [hb] at hv <;> cases hv
        rfl
      have hphase : v.status.phase = .payload := by rw [hframe]; exact hp
      have hmoved : { v with rsym := v.rsym, icur := r.2 }.Running :=
        hrunning.withCursor hphase v.rsym (by rw [hframe]; show u.pstart ≤ r.2; omega)
          (by rw [hframe]; show r.2 ≤ u.pend; omega)
      exact ih hmoved hphase
    · exact .of_ok h

theorem decallBody_keepsInv {s : State} (h : s.Running) (hp : s.status.phase = .payload) : (decallBody s).KeepsInv := by
  obtain ⟨-, hicur, hpend⟩ := h.cursor.payload hp
  rw [decallBody]
  split
  · exact .of_stuck
  · split
    · exact .of_raised (h.raise (by decide) (h.params.bit_fits (by omega) h.mem.ilen_le))
    · exact decodeAll_keepsInv _ h hp

theorem rewind_keepsInv {s : State} (h : s.Running) (hp : s.status.phase = .payload) :
    (Res.ok () { s with icur := s.pstart, olen := 0 }).KeepsInv := by
  obtain ⟨hpstart, hicur, -⟩ := h.cursor.payload hp
  have hmoved := h.withCursor hp s.rsym le_rfl (hpstart.trans hicur)
  exact .of_ok { hmoved with
    freq := { hmoved.freq with }
    mem := { hmoved.mem.noOutput with }
    tree := hmoved.tree.congr rfl rfl rfl rfl rfl }

/-! ## COMP and DECOMP -/

theorem compBody_keepsInv {s : State} (h : s.Running) (hp : s.status.phase = .count) : (compBody s).KeepsInv := by
  obtain ⟨-, -, hempty⟩ := Status.flags_unset h.flags (.inl hp)
  refine (addText_keepsInv _ h).bind fun _ u hu hrunning => ?_
  have hus := (addText_endsStatus _ s).ok hu
  refine (buildBody_keepsInv hrunning (hus ▸ hp)).bind fun _ v hv hrunning => ?_
  have hvs := (buildBody_endsStatus u).ok hv
  split
  · exact .of_ok hrunning
  · next hve =>
    have hbuilt : v.status.phase = .built := by
      split at hvs
      · rw [hvs] at hve
        exact absurd rfl hve
      · rw [hvs]; rfl
    refine (sertBody_keepsInv hrunning hbuilt).bind fun _ w hw hrunning => ?_
    have hws : w.status.phase = .stream := by rw [(sertBody_endsStatus v).ok hw]
    refine (encodeText_keepsInv _ hrunning hws).bind fun _ x hx hrunning => ?_
    exact finBody_keepsInv hrunning (by rw [(encodeText_endsStatus _ w).ok hx, hws])

theorem decompBody_keepsInv {s : State} (h : s.Running) (hp : s.status.phase = .count) : (decompBody s).KeepsInv := by
  refine (ldhdrBody_keepsInv h hp).bind fun _ u hu hrunning => ?_
  have hus := (ldhdrBody_endsStatus s).ok hu
  split
  · exact .of_ok hrunning
  · next hue =>
    have hhdr : u.status.phase = .hdr := by
      split at hus
      · rw [hus] at hue
        exact absurd rfl hue
      · rw [hus]
    refine (deserBody_keepsInv hrunning hhdr).bind fun _ v hv hrunning => ?_
    exact decallBody_keepsInv hrunning (by rw [(deserBody_endsStatus u).ok hv]; rfl)

/-! ## Commands -/

theorem commandBody_keepsInv {i : Instr} {s : State} (h : s.Running) (hperm : s.status.permits i = true) :
    (commandBody i s).KeepsInv := by
  have hphase {p : Phase} (hp : (s.status.phase == p) = true) : s.status.phase = p := by simpa using hp
  cases i with
  | fadd sym => exact addSym_keepsInv sym h
  | faddt => exact addText_keepsInv _ h
  | fcnt sym => exact fcnt_keepsInv sym h
  | build => exact buildBody_keepsInv h (hphase hperm)
  | cwlk sym => exact cwlkBody_keepsInv sym h
  | sert => exact sertBody_keepsInv h (hphase hperm)
  | enc sym => exact encodeSymbol_keepsInv sym h (hphase hperm)
  | enct => exact encodeText_keepsInv _ h (hphase hperm)
  | fin => exact finBody_keepsInv h (hphase hperm)
  | ldhdr => exact ldhdrBody_keepsInv h (hphase hperm)
  | deser => exact deserBody_keepsInv h (hphase hperm)
  | dec1 => exact dec1Body_keepsInv h (hphase hperm)
  | decall => exact decallBody_keepsInv h (hphase hperm)
  | rewind => exact rewind_keepsInv h (hphase hperm)
  | comp => exact compBody_keepsInv h (hphase hperm)
  | decomp => exact decompBody_keepsInv h (hphase hperm)
  | nop | clr | hdr v | leaf sym | internal | pbit b | padbit => exact .of_ok h

/-- The reset state with its memories and the model's own fields replaced (R49, R201). -/
theorem initial_inv_with {s : State} (h : s.MemOk) (hp : s.params.Valid) (moves : List HostMove) (data : HostValue)
    (epoch : Nat) :
    { State.initial s.params with
      ibuf := s.ibuf, obuf := s.obuf, hostMoves := moves, hostData := data, epoch := epoch }.Inv := by
  have hinv : (State.initial s.params).Inv := resetMeetsInvariant s.params hp
  exact { hinv with
    freq := { hinv.freq with }
    mem := { h with
      ilen_le := Nat.zero_le _
      olen_le := Nat.zero_le _
      written := fun a ha => absurd ha (Nat.not_lt_zero a) }
    status := { hinv.status with }
    tree := hinv.tree.congr rfl rfl rfl rfl rfl
    range := { hinv.range with } }

theorem exec_command_inv {i : Instr} {s t : State} (h : s.Inv) (hi : i.place = .command) (he : exec i s = .next t) :
    t.Inv := by
  by_cases hclr : i = .clr
  · subst hclr
    cases he
    exact initial_inv_with h.mem h.params _ _ _
  · rw [exec_command hi hclr] at he
    rcases runCommand_cases he with ⟨_, rfl⟩ | ⟨_, _, rfl⟩ | ⟨herr, hperm, hb⟩ | ⟨herr, hperm, k, n, u, hb, rfl⟩
    · exact h
    · exact h.held.raise (by decide) (h.params.word_fits (commandWord i).isLt)
    · exact ((commandBody_keepsInv (h.running herr) hperm).ok hb).inv
    · exact (commandBody_keepsInv (h.running herr) hperm).raised hb

theorem onCmdWrite_inv {w : CmdWord} {s t : State} (h : s.Inv) (ht : onCmdWrite w s = .next t) : t.Inv := by
  rcases onCmdWrite_cases w s with ⟨i, _, hplace, hw⟩ | ⟨_, hw⟩ <;> rw [hw] at ht
  · exact exec_command_inv h hplace ht
  · cases ht
    rw [illegalCommand]
    split
    · exact h
    · exact h.held.raise (by decide) (h.params.word_fits w.isLt)

/-- The end of a command (R27, R29). -/
theorem State.Inv.endCommand {s : State} (h : s.Inv) : s.endCommand.Inv :=
  { h with
    freq := { h.freq with }
    mem := { h.mem with }
    status := { h.status with cmd_zero := fun _ => rfl }
    tree := h.tree.congr rfl rfl rfl rfl rfl
    range := { h.range with } }

/-! ## The host and the step -/

theorem State.Inv.withCommand {s : State} (h : s.Inv) (w : CmdWord) : (s.withCommand w).Inv :=
  { h with
    freq := { h.freq with }
    mem := { h.mem with }
    status := { h.status with cmd_zero := fun hb => nomatch hb }
    tree := h.tree.congr rfl rfl rfl rfl rfl
    range := { h.range with } }

/-- The model's own host fields are free. -/
theorem State.Inv.withHost {s : State} (h : s.Inv) (moves : List HostMove) (data : HostValue) :
    { s with hostMoves := moves, hostData := data }.Inv :=
  { h with
    freq := { h.freq with }
    mem := { h.mem with }
    status := { h.status with }
    tree := h.tree.congr rfl rfl rfl rfl rfl
    range := { h.range with } }

/-- A host write of ILEN in range, with the lock open (R30, R73). -/
theorem State.Inv.withIlen {s : State} (h : s.Inv) {n : Nat} (hn : n ≤ s.params.ibufCap)
    (hl : s.status.inputLocked = false) : { s with ilen := n }.Inv := by
  have hzeros := h.cursor.zeros hl
  have hcursor : { s with ilen := n }.CursorOk := by
    rw [State.CursorOk.eq_def]
    split
    · exact hzeros
    · exact hzeros
    · exact hzeros
    · exact hzeros
    · next hp => simp [Status.inputLocked, show s.status.phase = .hdr from hp] at hl
    · next hp => simp [Status.inputLocked, show s.status.phase = .payload from hp] at hl
  exact { h with
    freq := { h.freq with }
    mem := { h.mem with ilen_le := hn }
    status := { h.status with }
    tree := h.tree.congr rfl rfl rfl rfl rfl
    cursor := hcursor
    range := { h.range with } }

/-- A host write of a byte of IBUF (R73). -/
theorem State.Inv.withIbuf {s : State} (h : s.Inv) {a : Nat} (v : Byte) (ha : a < s.params.ibufCap) :
    { s with ibuf := Memory.write s.ibuf a v }.Inv :=
  { h with
    freq := { h.freq with }
    mem := { h.mem with
      ibuf_wf := Memory.write_wf a v h.mem.ibuf_wf
      ibuf_in := fun c hc => by
        rcases Memory.mem_write hc with rfl | hc
        · exact ha
        · exact h.mem.ibuf_in c hc }
    status := { h.status with }
    tree := h.tree.congr rfl rfl rfl rfl rfl
    range := { h.range with } }

/-- The reset event (R260): the buffers list nothing. -/
theorem State.Inv.afterReset {s : State} (h : s.Inv) : s.afterReset.Inv :=
  initial_inv_with (s := State.initial s.params) (State.initial_memOk s.params) h.params s.hostMoves .nothing (s.epoch + 1)

theorem hostMove_inv {m : HostMove} {s t : State} (h : s.Inv) (ht : hostMove m s = .next t) : t.Inv := by
  rcases hostMove_cases ht with ⟨number, value, rfl⟩ | rfl | ⟨a, v, ha, _, rfl⟩ | ⟨v, rfl⟩ | ⟨_, rfl⟩
  · rcases writeReg_frame s number value with hw | hw | ⟨hl, hn, hw⟩ <;> rw [hw]
    · exact h.withCommand _
    · exact h
    · exact h.withIlen hn hl
  · exact h
  · exact h.withIbuf v ha
  · exact h.withHost s.hostMoves v
  · exact h.afterReset

/-- Settles O58: a command keeps the invariant by its pseudocode, the host by its moves, and with the reader idle the engine stands
before no record. -/
theorem stepKeepsInvariant : Obligations.StepKeepsInvariant := by
  unfold Obligations.StepKeepsInvariant
  intro s t h ht
  rcases step_cases ht with ⟨rest, _, rfl⟩ | ⟨_, _, u, hu, rfl⟩ | ⟨_, _, p, b, ha, _⟩ | ⟨_, _, _, hh⟩
  · exact (h.withHost rest s.hostData).afterReset
  · exact (onCmdWrite_inv h hu).endCommand
  · rw [awaited_idle h.status.reader_idle] at ha
    cases ha
  · rcases hostStep_cases hh with ⟨_, rfl⟩ | ⟨m, rest, _, hm⟩
    · exact h
    · exact hostMove_inv (h.withHost rest s.hostData) hm

end Sys2Proof.Machine

/-!
PROOFS of the memory obligations, part 1: the decoder. The bits of the input (R75), the tree that `Des` reads back from its own
serialization (R183), the codeword that `Walk1` follows (R185), DECALL's loop (R188), and DECOMP of a container (R205).
-/

namespace Sys2Proof.Machine

/-- A command other than CLR, in phase and with no fault recorded, runs its pseudocode (R225). -/
theorem exec_runs {i : Instr} {s : State} (hi : i.place = .command) (hclr : i ≠ .clr) (herr : s.status.err = false)
    (hperm : s.status.permits i = true) : exec i s = (commandBody i s).outcome := by
  rw [exec_command hi hclr, runCommand_runs herr hperm]

/-! ## The bits of the input (R75) -/

@[simp] theorem State.length_inBits (s : State) (b n : Nat) : (s.inBits b n).length = n := by
  rw [State.inBits, List.length_map, List.length_range]

theorem State.inBits_succ (s : State) (b n : Nat) : s.inBits b (n + 1) = s.inBit b :: s.inBits (b + 1) n := by
  rw [State.inBits, List.range_succ_eq_map, List.map_cons, List.map_map]
  refine congrArg (s.inBit b :: ·) (List.map_congr_left fun k _ => congrArg s.inBit ?_)
  omega

theorem State.inBits_add (s : State) (b m n : Nat) : s.inBits b (m + n) = s.inBits b m ++ s.inBits (b + m) n := by
  induction m generalizing b with
  | zero => simp [State.inBits]
  | succ m ih => rw [Nat.succ_add, State.inBits_succ, State.inBits_succ, ih, List.cons_append, Nat.succ_add_eq_add_succ]

/-- The first of two parts that the input's bits spell, and the part after it. -/
theorem State.inBits_eq_append {s : State} {b n : Nat} {front back : Bits} (h : s.inBits b n = front ++ back) :
    s.inBits b front.length = front ∧ s.inBits (b + front.length) back.length = back := by
  have hlen : n = front.length + back.length := by rw [← List.length_append, ← h, State.length_inBits]
  rw [hlen, State.inBits_add] at h
  exact List.append_inj h (State.length_inBits s b front.length)

theorem State.inBits_congr {s u : State} (hibuf : u.ibuf = s.ibuf) (hepoch : u.epoch = s.epoch) (b n : Nat) :
    u.inBits b n = s.inBits b n := by
  have hread (a : Nat) : u.memRead a = s.memRead a := by rw [State.memRead, State.memRead, hibuf, hepoch]
  have hbit (k : Nat) : u.inBit k = s.inBit k := by rw [State.inBit, State.inBit, hread]
  exact List.map_congr_left fun k _ => hbit (b + k)

@[simp] theorem State.length_payloadLeft (s : State) : s.payloadLeft.length = s.pend - s.icur := s.length_inBits _ _

/-- The symbol bits of a LEAF record spell the symbol (R108). -/
theorem symOfBits_symBits (sym : Byte) : symOfBits (symBits sym) = sym := by
  refine BitVec.eq_of_getLsbD_eq fun i hi => ?_
  have hbit : (num (bits8 sym)).testBit (7 - (7 - i)) = (bits8 sym).getD (7 - i) false :=
    testBit_num (s := bits8 sym) (show 7 - i < 8 by omega)
  rw [bits8_eq, List.getD_eq_getElem?_getD, List.getElem?_map, List.getElem?_range (by omega), ← bits8_eq,
    Option.map_some, Option.getD_some, Nat.sub_sub_self (Nat.le_of_lt_succ hi)] at hbit
  show (BitVec.ofNat 8 (num (bits8 sym))).getLsbD i = _
  rw [BitVec.getLsbD_ofNat, hbit, decide_eq_true hi, Bool.true_and]

/-! ## The tree that `Des` reads back (R183) -/

@[simp] theorem Tree.size_uncounted (t : Tree) : t.uncounted.size = t.size := by
  induction t with
  | leaf => rfl
  | internal c l r ihl ihr => rw [Tree.uncounted, Tree.size, ihl, ihr, Tree.size]

@[simp] theorem Tree.paths_uncounted (t : Tree) (path : Bits) : t.uncounted.paths path = t.paths path := by
  induction t generalizing path with
  | leaf => rfl
  | internal c l r ihl ihr => rw [Tree.uncounted, Tree.paths, ihl, ihr, Tree.paths]

@[simp] theorem Tree.isLeaf_uncounted (t : Tree) : t.uncounted.isLeaf = t.isLeaf := by
  cases t <;> rfl

theorem State.Reads.nnode_eq {s t : State} {b i cur : Nat} {tree : Tree} (h : s.Reads t b i cur tree) :
    t.nnode = s.nnode + tree.size := by
  have hlen := h.holds.length_eq
  have hlt := h.nnode_lt
  rw [List.length_range'] at hlen
  omega

theorem takeNode_ok {b : Nat} {s : State} (hb : b < 8 * s.ilen) (hn : s.nnode < 511) :
    takeNode b s = .ok s.nnode { s with nnode := s.nnode + 1 } := by
  rw [takeNode, if_neg (Nat.not_le.2 hb), if_neg (show ¬ Config.nodeCap ≤ s.nnode from Nat.not_le.2 hn)]

/-- `Des` at the serialization of a tree that fits the node store reads that tree, its counts 0, and stops at the bit after it. -/
theorem des_of_ser {tree : Tree} {fuel b : Nat} {s : State} (hfuel : tree.height ≤ fuel) (hn : s.nnode + tree.size ≤ 511)
    (hb : b + tree.ser.length ≤ 8 * s.ilen) (hin : s.inBits b tree.ser.length = tree.ser) :
    ∃ t, des fuel b s = .ok (s.nnode, b + tree.ser.length) t ∧
      s.Reads t b s.nnode (b + tree.ser.length) tree.uncounted := by
  induction tree generalizing fuel b s with
  | leaf c sym =>
    obtain ⟨fuel, rfl⟩ := Nat.exists_eq_succ_of_ne_zero (Nat.one_le_iff_ne_zero.1 hfuel)
    have hlen : (Tree.leaf c sym).ser.length = 9 := rfl
    rw [hlen] at hin hb ⊢
    rw [Tree.size] at hn
    obtain ⟨hmarker, hsym⟩ : s.inBit b = false ∧ s.inBits (b + 1) 8 = symBits sym := by
      rw [State.inBits_succ] at hin
      exact List.cons.inj hin
    have hleaf : s.leafSymbol b = sym := by rw [State.leafSymbol, hsym, symOfBits_symBits]
    have hroom : ¬ 8 * s.ilen - b < 9 := by omega
    refine ⟨_, ?_, reads_leaf sym (by omega) hroom⟩
    rw [des, takeNode_ok (by omega) (by omega), Res.bind_ok]
    show (if s.inBit b = false then if 8 * s.ilen - b < 9 then _ else _ else _) = _
    rw [if_pos hmarker, if_neg hroom, ← hleaf]
    rfl
  | internal c l r ihl ihr =>
    rw [Tree.height] at hfuel
    obtain ⟨fuel, rfl⟩ := Nat.exists_eq_succ_of_ne_zero (show fuel ≠ 0 by omega)
    rw [Tree.size] at hn
    have hser : (Tree.internal c l r).ser = true :: (l.ser ++ r.ser) := rfl
    rw [hser, List.length_cons, List.length_append] at hb ⊢
    obtain ⟨hmarker, hsubtrees⟩ : s.inBit b = true ∧ s.inBits (b + 1) (l.ser ++ r.ser).length = l.ser ++ r.ser := by
      rw [hser, List.length_cons, State.inBits_succ] at hin
      exact List.cons.inj hin
    obtain ⟨hleft, hright⟩ := State.inBits_eq_append hsubtrees
    obtain ⟨u, hu, hul⟩ := ihl (s := { s with nnode := s.nnode + 1 }) (fuel := fuel) (b := b + 1) (by omega)
      (show s.nnode + 1 + l.size ≤ 511 by omega) (show b + 1 + l.ser.length ≤ 8 * s.ilen by omega) hleft
    have hnu : u.nnode = s.nnode + 1 + l.size := by rw [hul.nnode_eq, Tree.size_uncounted]
    have hframe : u = { s with nodes := u.nodes, nnode := u.nnode } :=
      des_frame (s := { s with nnode := s.nnode + 1 }) _ _ (.of_ok hu)
    have hilen : u.ilen = s.ilen := by rw [hframe]
    obtain ⟨v, hv, hvr⟩ := ihr (s := u) (fuel := fuel) (b := b + 1 + l.ser.length) (by omega) (by omega) (by omega)
      ((State.inBits_congr (by rw [hframe]) (by rw [hframe]) _ _).trans hright)
    have hcur : b + (l.ser.length + r.ser.length + 1) = b + 1 + l.ser.length + r.ser.length := by omega
    refine ⟨v.setNode s.nnode (Node.mkInternal (s.nnode + 1) u.nnode 0), ?_, ?_⟩
    · rw [des, takeNode_ok (by omega) (by omega), Res.bind_ok]
      show (if s.inBit b = false then _ else _) = _
      rw [if_neg (by simp [hmarker]), hu, Res.bind_ok, hv, Res.bind_ok, hcur]
    · rw [hcur]
      exact reads_internal (by omega) hul hvr hilen

/-- The registers as DESER writes them before it derives the code table: the root, and the payload from bit `cur` (R183, R184). -/
def State.payloadAt (s : State) (root cur : Nat) : State :=
  { s with root := root, icur := cur, pstart := cur, pend := 8 * s.ilen - s.pad.toNat, olen := 0 }

/-- DESER's last lines, where the padding fits after the tree. -/
theorem finishTree_fits {root cur : Nat} {s t : State} (hb : cur + s.pad.toNat ≤ 8 * s.ilen)
    (hcodes : deriveCodes (s.payloadAt root cur) = .ok () t) : finishTree root cur s = .ok () (t.treeReady .payload) := by
  rw [finishTree, if_neg (Nat.not_lt.2 hb)]
  exact congrArg (Res.bind · _) hcodes

/-- What DESER of the serialization of a tree has done (R183, R184, R146): the tree, its counts 0, stands in the node store with its
root first, and the payload begins after it. -/
structure State.Rebuilds (s t : State) (tree : Tree) : Prop where
  hasTree : t.HasTree tree.uncounted
  root : t.root = 0
  icur : t.icur = s.icur + tree.ser.length
  pstart : t.pstart = t.icur
  pend : t.pend = 8 * s.ilen - s.pad.toNat
  olen : t.olen = 0

theorem deserBody_of_ser {s : State} {tree : Tree} (hsize : tree.size ≤ 511)
    (hin : s.inBits s.icur tree.ser.length = tree.ser) (hb : s.icur + tree.ser.length + s.pad.toNat ≤ 8 * s.ilen) :
    ∃ t, deserBody s = .ok () t ∧ s.Rebuilds t tree := by
  have hheight := tree.height_le_size
  obtain ⟨u, hu, hreads⟩ := des_of_ser (s := { s with nnode := 0 }) (fuel := Config.nodeCap + 1) (b := s.icur)
    (by rw [Config.nodeCap]; omega) ((Nat.zero_add _).trans_le hsize) (show _ ≤ 8 * s.ilen by omega) hin
  obtain ⟨-, -, hnode, -, -, -, hholds⟩ := hreads
  rw [Nat.sub_zero, ← List.range_eq_range'] at hholds
  have hframe : u = { s with nodes := u.nodes, nnode := u.nnode } := des_frame (s := { s with nnode := 0 }) _ _ (.of_ok hu)
  have hilen : u.ilen = s.ilen := by rw [hframe]
  have hpad : u.pad = s.pad := by rw [hframe]
  obtain ⟨hcodes, htree⟩ := deriveCodes_of_holds (s := u.payloadAt 0 (s.icur + tree.ser.length))
    (hholds.congr le_rfl fun _ _ => rfl) hnode .rfl
  refine ⟨_, ?_, htree.congr (u := { u.payloadAt 0 _ with code := tree.uncounted.codeTable }.treeReady .payload)
    rfl rfl rfl rfl, rfl, rfl, rfl, ?_, rfl⟩
  · rw [deserBody, hu, Res.bind_ok]
    exact finishTree_fits (by rw [hilen, hpad]; exact hb) hcodes
  · show 8 * u.ilen - u.pad.toNat = _
    rw [hilen, hpad]

/-! ## The codeword that `Walk1` follows (R185) -/

/-- The bits that lead from the walk's start to a leaf decode to its symbol, whatever comes after them. -/
theorem Tree.decodeOne_of_mem_paths {t : Tree} {path : Bits} {e : Byte × Bits} (h : e ∈ t.paths path) :
    ∃ code, e.2 = path ++ code ∧ ∀ rest, t.decodeOne (code ++ rest) = some (e.1, rest) := by
  induction t generalizing path with
  | leaf c sym =>
    rw [List.mem_singleton.1 h]
    exact ⟨[], (List.append_nil path).symm, fun _ => rfl⟩
  | internal c l r ihl ihr =>
    rcases List.mem_append.1 h with h | h
    · obtain ⟨code, hcode, hdecode⟩ := ihl h
      exact ⟨false :: code, by rw [hcode, List.append_assoc]; rfl, hdecode⟩
    · obtain ⟨code, hcode, hdecode⟩ := ihr h
      exact ⟨true :: code, by rw [hcode, List.append_assoc]; rfl, hdecode⟩

/-- A codeword of a tree decodes to its symbol (R111, R185). -/
theorem Tree.decodeOne_codeword {t : Tree} {e : Byte × Bits} (h : e ∈ t.paths []) (rest : Bits) :
    t.decodeOne (e.2 ++ rest) = some (e.1, rest) := by
  obtain ⟨code, hcode, hdecode⟩ := decodeOne_of_mem_paths h
  rw [hcode]
  exact hdecode rest

/-- Only a single leaf has an empty codeword (R150). -/
theorem Tree.codeword_ne_nil {t : Tree} (ht : t.isLeaf = false) {e : Byte × Bits} (h : e ∈ t.paths []) : e.2 ≠ [] := by
  cases t with
  | leaf => cases ht
  | internal c l r =>
    rcases List.mem_append.1 h with h | h
    · exact List.ne_nil_of_mem ((prefix_of_mem_paths h).subset List.mem_cons_self)
    · exact List.ne_nil_of_mem ((prefix_of_mem_paths h).subset List.mem_cons_self)

/-- The bounded reader of R41 answers only a tree that stands there. -/
theorem State.holdsTree_of_treeAt? {s : State} {d i : Nat} {t : Tree} (h : s.treeAt? d i = some t) :
    ∃ is, s.HoldsTree i t is := by
  induction d generalizing i t with
  | zero => cases h
  | succ d ih =>
    rw [State.treeAt?] at h
    split at h
    · cases h
    · next hi =>
      have hi : i < s.nnode := Nat.not_le.1 hi
      split at h
      · next hleaf =>
        cases h
        exact ⟨_, .leaf hi hleaf⟩
      · next hleaf =>
        split at h
        · next l r hl hr =>
          cases h
          obtain ⟨ls, hl⟩ := ih hl
          obtain ⟨rs, hr⟩ := ih hr
          exact ⟨_, .internal hi (by simpa using hleaf) hl hr⟩
        · cases h

theorem State.HoldsTree.lt_nnode {s : State} {i : Nat} {t : Tree} {is : List Nat} (h : s.HoldsTree i t is) :
    i < s.nnode := by
  cases h <;> assumption

theorem State.HoldsTree.leaf_eq {s : State} {i : Nat} {t : Tree} {is : List Nat} (h : s.HoldsTree i t is) :
    (s.nodeAt i).leaf = t.isLeaf := by
  cases h with
  | leaf hi hleaf => exact hleaf
  | internal hi hleaf hl hr => exact hleaf

theorem walkFrom_leaf {c0 left i c : Nat} {s : State} (hi : i < s.nnode) (hleaf : (s.nodeAt i).leaf = true) :
    walkFrom c0 left i c s = .ok ((s.nodeAt i).sym, c) s := by
  cases left <;> rw [walkFrom, if_neg (Nat.not_le.2 hi), if_pos hleaf]

theorem walkFrom_internal {c0 left i c : Nat} {s : State} (hi : i < s.nnode) (hleaf : (s.nodeAt i).leaf = false) :
    walkFrom c0 (left + 1) i c s = walkFrom c0 left (s.childOf i (s.inBit c)) (c + 1) s := by
  rw [walkFrom, if_neg (Nat.not_le.2 hi), if_neg (by simp [hleaf])]

/-- `Walk1`'s loop follows the payload's leading bits as `decode_one` follows them in the tree. -/
theorem walkFrom_of_decodeOne {s : State} {i : Nat} {t : Tree} {is : List Nat} (h : s.HoldsTree i t is) (c0 : Nat)
    {left c : Nat} {sym : Byte} {rest : Bits} (hd : t.decodeOne (s.inBits c left) = some (sym, rest)) :
    walkFrom c0 left i c s = .ok (sym, c + left - rest.length) s := by
  induction h generalizing left c with
  | @leaf i hi hleaf =>
    cases hd
    rw [walkFrom_leaf hi hleaf, State.length_inBits, Nat.add_sub_cancel]
  | @internal i l r ls rs hi hleaf _ _ ihl ihr =>
    cases left with
    | zero => cases hd
    | succ left =>
      rw [State.inBits_succ, Tree.decodeOne] at hd
      rw [walkFrom_internal hi hleaf, State.childOf, show c + (left + 1) = c + 1 + left by omega]
      split at hd
      · next hbit => rw [if_pos hbit]; exact ihr hd
      · next hbit => rw [if_neg hbit]; exact ihl hd

/-- `Walk1` at the cursor, where a whole codeword stands. -/
theorem walk1_codeword {s : State} {tree : Tree} {e : Byte × Bits} {rest : Bits} (htree : s.tree? = some tree)
    (he : e ∈ tree.paths []) (hleft : s.payloadLeft = e.2 ++ rest) :
    walk1 s.icur s = .ok (e.1, s.icur + e.2.length) s := by
  obtain ⟨is, hholds⟩ := State.holdsTree_of_treeAt? htree
  have hlen := congrArg List.length hleft
  rw [State.length_payloadLeft, List.length_append] at hlen
  have hwalk := walkFrom_of_decodeOne hholds s.icur (left := s.pend - s.icur) (c := s.icur)
    (by rw [← State.payloadLeft, hleft]; exact Tree.decodeOne_codeword he rest)
  rw [walk1, hwalk, hlen, ← Nat.add_assoc, Nat.add_sub_cancel]

/-! ## DECALL's loop (R188) -/

/-- A byte appended to the output. -/
theorem State.outBytes_append (s : State) (v : Byte) :
    { s with obuf := Memory.write s.obuf s.olen v, olen := s.olen + 1 }.outBytes = s.outBytes ++ [v] := by
  rw [State.outBytes, List.range_succ, List.map_append, List.map_singleton, Memory.read?_write_same]
  refine congrArg (· ++ [v]) (List.map_congr_left fun a ha => ?_)
  rw [Memory.read?_write_other _ _ _ _ (List.mem_range.1 ha).ne]

/-- From `s` to `t` DECALL has decoded the codewords of `entries`: their symbols are the new output, the cursor stands after them, and
nothing else has changed. -/
structure State.Yields (s t : State) (entries : List (Byte × Bits)) : Prop where
  olen : t.olen = s.olen + entries.length
  icur : t.icur = s.icur + (entries.flatMap Prod.snd).length
  outBytes : t.outBytes = s.outBytes ++ entries.map Prod.fst
  obuf : ∀ a, a < s.olen ∨ t.olen ≤ a → Memory.read? t.obuf a = Memory.read? s.obuf a
  frame : t = { s with obuf := t.obuf, olen := t.olen, icur := t.icur }

theorem State.Yields.nil (s : State) : s.Yields s [] where
  olen := rfl
  icur := rfl
  outBytes := (List.append_nil _).symm
  obuf _ _ := rfl
  frame := rfl

/-- The state after one codeword. -/
def State.yield (s : State) (e : Byte × Bits) : State :=
  { s with obuf := Memory.write s.obuf s.olen e.1, olen := s.olen + 1, icur := s.icur + e.2.length }

theorem State.Yields.cons {s t : State} {e : Byte × Bits} {entries : List (Byte × Bits)}
    (h : (s.yield e).Yields t entries) : s.Yields t (e :: entries) where
  olen := h.olen.trans (by rw [List.length_cons, Nat.add_comm entries.length, ← Nat.add_assoc]; rfl)
  icur := h.icur.trans (by rw [List.flatMap_cons, List.length_append, ← Nat.add_assoc]; rfl)
  outBytes := by
    rw [h.outBytes, show (s.yield e).outBytes = s.outBytes ++ [e.1] from s.outBytes_append e.1, List.append_assoc]
    rfl
  obuf a ha := by
    have holen : t.olen = s.olen + 1 + entries.length := h.olen
    rw [h.obuf a (ha.imp_left Nat.lt_succ_of_lt)]
    exact Memory.read?_write_other _ _ _ _ (by omega)
  frame := h.frame

/-- One turn of the loop, at a whole codeword and with room for its symbol. -/
theorem decodeAll_codeword {fuel : Nat} {s : State} {tree : Tree} {e : Byte × Bits} {rest : Bits}
    (htree : s.tree? = some tree) (he : e ∈ tree.paths []) (hleft : s.payloadLeft = e.2 ++ rest)
    (hlt : s.icur < s.pend) (hroom : s.olen < s.params.obufCap) :
    decodeAll (fuel + 1) s = decodeAll fuel (s.yield e) := by
  rw [decodeAll, if_pos hlt, walk1_codeword htree he hleft, Res.bind_ok, putByte, if_neg (Nat.not_le.2 hroom)]
  rfl

theorem decodeAll_end {fuel : Nat} {s : State} (h : s.pend ≤ s.icur) : decodeAll fuel s = .ok () s := by
  cases fuel with
  | zero => rfl
  | succ fuel => rw [decodeAll, if_neg (Nat.not_lt.2 h)]

/-- A payload with a codeword left has bits left. -/
theorem State.icur_lt_pend {s : State} {bits : Bits} (hne : bits ≠ []) {rest : Bits}
    (hleft : s.payloadLeft = bits ++ rest) : s.icur < s.pend := by
  have hpos := List.length_pos_iff.2 hne
  have hlen := congrArg List.length hleft
  rw [State.length_payloadLeft, List.length_append] at hlen
  omega

/-- After a codeword the rest of the payload is left. -/
theorem State.payloadLeft_yield {s : State} {e : Byte × Bits} {rest : Bits} (hleft : s.payloadLeft = e.2 ++ rest) :
    (s.yield e).payloadLeft = rest := by
  have hlen := congrArg List.length hleft
  rw [State.length_payloadLeft, List.length_append] at hlen
  have hrest := (State.inBits_eq_append hleft).2
  have hcount : s.pend - (s.icur + e.2.length) = rest.length := by omega
  rw [← hcount] at hrest
  exact hrest

/-- The loop over a sequence of codewords, whatever bits come after them: it goes on from there with the fuel it still needs. -/
theorem decodeAll_entries {tree : Tree} (hleaf : tree.isLeaf = false) {entries : List (Byte × Bits)} {tail : Bits}
    (hmem : ∀ e ∈ entries, e ∈ tree.paths []) {fuel : Nat} {s : State} (htree : s.tree? = some tree)
    (hleft : s.payloadLeft = entries.flatMap Prod.snd ++ tail) (hroom : s.olen + entries.length ≤ s.params.obufCap)
    (hfuel : s.pend - s.icur ≤ fuel) :
    ∃ t fuel', decodeAll fuel s = decodeAll fuel' t ∧ t.pend - t.icur ≤ fuel' ∧ t.payloadLeft = tail ∧
      s.Yields t entries := by
  induction entries generalizing fuel s with
  | nil => exact ⟨s, fuel, rfl, hfuel, hleft, .nil s⟩
  | cons e entries ih =>
    obtain ⟨he, hmem⟩ := List.forall_mem_cons.1 hmem
    rw [List.flatMap_cons, List.append_assoc] at hleft
    rw [List.length_cons] at hroom
    have hne := Tree.codeword_ne_nil hleaf he
    have hpos := List.length_pos_iff.2 hne
    have hlt := State.icur_lt_pend hne hleft
    obtain ⟨fuel, rfl⟩ := Nat.exists_eq_succ_of_ne_zero (show fuel ≠ 0 by omega)
    have htree' := (tree?_congr (s := s) (u := s.yield e) rfl rfl rfl).trans htree
    obtain ⟨t, fuel', hrun, hfuel', htail, hyields⟩ := ih hmem htree' (State.payloadLeft_yield hleft)
      (show s.olen + 1 + entries.length ≤ s.params.obufCap by omega)
      (fuel := fuel) (show s.pend - (s.icur + e.2.length) ≤ fuel by omega)
    exact ⟨t, fuel', (decodeAll_codeword htree he hleft hlt (by omega)).trans hrun, hfuel', htail, hyields.cons⟩

/-- DECALL reaches its loop where the root is an internal node. -/
theorem decallBody_internal {s : State} {tree : Tree} (htree : s.tree? = some tree) (hleaf : tree.isLeaf = false) :
    decallBody s = decodeAll (s.pend - s.icur) s := by
  obtain ⟨is, hholds⟩ := State.holdsTree_of_treeAt? htree
  have hroot := hholds.lt_nnode
  rw [decallBody, if_neg (Nat.not_le.2 hroot), hholds.leaf_eq, hleaf]
  rfl

/-- DECALL does nothing where the payload is empty, a single leaf included (R189 (a)). -/
theorem decallBody_empty {s : State} {tree : Tree} (htree : s.tree? = some tree) (h : s.pend ≤ s.icur) :
    decallBody s = .ok () s := by
  obtain ⟨is, hholds⟩ := State.holdsTree_of_treeAt? htree
  have hroot := hholds.lt_nnode
  rw [decallBody, if_neg (Nat.not_le.2 hroot), decide_eq_false (Nat.not_lt.2 h), Bool.and_false, if_neg Bool.false_ne_true,
    decodeAll_end h]

/-- DECALL of a payload that is a sequence of codewords yields their symbols and ends at PEND (R188, R189 (a)). -/
theorem decallBody_entries {s : State} {tree : Tree} {entries : List (Byte × Bits)} (htree : s.tree? = some tree)
    (hleaf : tree.isLeaf = true → entries = []) (hmem : ∀ e ∈ entries, e ∈ tree.paths []) (hcur : s.icur ≤ s.pend)
    (hleft : s.payloadLeft = entries.flatMap Prod.snd) (hroom : s.olen + entries.length ≤ s.params.obufCap) :
    ∃ t, decallBody s = .ok () t ∧ s.Yields t entries ∧ t.icur = s.pend := by
  have hlen : s.pend - s.icur = (entries.flatMap Prod.snd).length := by rw [← hleft, State.length_payloadLeft]
  cases hl : tree.isLeaf with
  | true =>
    obtain rfl := hleaf hl
    have hend : s.pend ≤ s.icur := Nat.le_of_sub_eq_zero hlen
    exact ⟨s, decallBody_empty htree hend, .nil s, le_antisymm hcur hend⟩
  | false =>
    obtain ⟨t, fuel', hrun, -, -, hyields⟩ := decodeAll_entries hl hmem htree (tail := [])
      (by rw [hleft, List.append_nil]) hroom le_rfl
    have hicur : t.icur = s.pend := by rw [hyields.icur]; omega
    have hend : t.pend ≤ t.icur := by rw [hicur, hyields.frame]
    exact ⟨t, (decallBody_internal htree hl).trans (hrun.trans (decodeAll_end hend)), hyields, hicur⟩

/-- DECALL with OBUF full and a whole codeword left stops at that codeword (R78). -/
theorem decodeAll_overflow {fuel : Nat} {s : State} {tree : Tree} {e : Byte × Bits} {rest : Bits}
    (htree : s.tree? = some tree) (he : e ∈ tree.paths []) (hleft : s.payloadLeft = e.2 ++ rest)
    (hlt : s.icur < s.pend) (hfuel : s.pend - s.icur ≤ fuel) (hfull : s.params.obufCap ≤ s.olen) :
    decodeAll fuel s = .raised .outputOverflow s.olen s := by
  obtain ⟨fuel, rfl⟩ := Nat.exists_eq_succ_of_ne_zero (show fuel ≠ 0 by omega)
  rw [decodeAll, if_pos hlt, walk1_codeword htree he hleft, Res.bind_ok, putByte, if_pos hfull]
  rfl

/-- Settles O46: the loop yields the codewords before, and its next turn finds OBUF full. -/
theorem decallOverflowKeepsPartialResult : Obligations.DecallOverflowKeepsPartialResult := by
  unfold Obligations.DecallOverflowKeepsPartialResult
  intro s tree entries e rest herr hphase htree hleaf hmem hcur hleft hfull
  obtain ⟨hentries, he⟩ := List.forall_mem_append.1 hmem
  have he : e ∈ tree.paths [] := he e List.mem_cons_self
  rw [List.append_assoc] at hleft
  obtain ⟨t, fuel', hrun, hfuel', htail, hyields⟩ := decodeAll_entries hleaf hentries htree hleft hfull.le le_rfl
  have hframe := hyields.frame
  have hcap : t.params.obufCap = s.params.obufCap := by rw [hframe]
  have holen : t.olen = s.params.obufCap := hyields.olen.trans hfull
  have htree' : t.tree? = some tree := (tree?_congr (by rw [hframe]) (by rw [hframe]) (by rw [hframe])).trans htree
  have hlt := State.icur_lt_pend (Tree.codeword_ne_nil hleaf he) htail
  have hraise := decodeAll_overflow htree' he htail hlt hfuel' (by rw [hcap, holen])
  refine ⟨t.raise .outputOverflow t.olen, ?_, ?_, rfl, holen, holen, hyields.icur, hyields.outBytes, ?_⟩
  · rw [exec_runs rfl (by decide) herr (by simp [Status.permits, hphase]), commandBody, decallBody_internal htree hleaf, hrun,
      hraise]
    rfl
  · show { t.status with err := true } = _
    rw [hframe]
  · rw [hframe]
    rfl

/-! ## DECOMP (R205) -/

/-- LDHDR with input present and a header byte of 0 to 7 (R181). -/
theorem ldhdrBody_header {s : State} (hilen : 1 ≤ s.ilen) (hv : (s.memRead 0).toNat < 8) :
    ldhdrBody s = .ok () ({ s with pad := (s.memRead 0).setWidth 3, icur := 8 }.setPhase .hdr) := by
  rw [ldhdrBody, if_neg (Nat.one_le_iff_ne_zero.1 hilen), loadHeader, if_neg (by omega)]

/-- LDHDR and then DESER of a container, whatever its padding bits: its tree stands in NODE, its payload is left to decode, and
nothing else has changed. -/
theorem container_rebuilds {s : State} {tree : Tree} {code padding : Bits} (hilen : 1 ≤ s.ilen)
    (hheader : (s.memRead 0).toNat = padding.length) (hpadding : padding.length < 8) (hsize : tree.size ≤ 511)
    (hin : s.inBits 8 (8 * s.ilen - 8) = tree.ser ++ code ++ padding) :
    ∃ u v, ldhdrBody s = .ok () u ∧ u.status.empty = s.status.empty ∧ deserBody u = .ok () v ∧ u.Rebuilds v tree ∧
      v.payloadLeft = code ∧ v.icur ≤ v.pend ∧
      v = { s with
        pad := v.pad, icur := v.icur, pstart := v.pstart, pend := v.pend, nodes := v.nodes, nnode := v.nnode,
        root := v.root, code := v.code, olen := v.olen,
        status := { s.status with rootv := true, codev := true, phase := .payload } } := by
  obtain ⟨u, hldhdr, hu⟩ : ∃ u, ldhdrBody s = .ok () u ∧
      u = { s with pad := (s.memRead 0).setWidth 3, icur := 8, status := { s.status with phase := .hdr } } :=
    ⟨_, ldhdrBody_header hilen (hheader ▸ hpadding), rfl⟩
  have hupad : u.pad.toNat = padding.length := by
    rw [hu, BitVec.toNat_setWidth, hheader]
    exact Nat.mod_eq_of_lt hpadding
  have huilen : u.ilen = s.ilen := by rw [hu]
  have huicur : u.icur = 8 := by rw [hu]
  have huin (b n : Nat) : u.inBits b n = s.inBits b n := State.inBits_congr (by rw [hu]) (by rw [hu]) b n
  have hlen := congrArg List.length hin
  rw [State.length_inBits, List.length_append, List.length_append] at hlen
  rw [List.append_assoc] at hin
  obtain ⟨hser, hafter⟩ := State.inBits_eq_append hin
  obtain ⟨hcode, -⟩ := State.inBits_eq_append hafter
  obtain ⟨v, hdeser, hrebuilds⟩ := deserBody_of_ser (s := u) hsize (by rw [huicur, huin, hser]) (by omega)
  have hframe := deserBody_frame (.of_ok hdeser)
  have hstatus : v.status = { s.status with rootv := true, codev := true, phase := .payload } := by
    rw [(deserBody_endsStatus u).ok hdeser, hu]
    rfl
  have hicur : v.icur = 8 + tree.ser.length := by rw [hrebuilds.icur, huicur]
  have hpend : v.pend = 8 * s.ilen - padding.length := by rw [hrebuilds.pend, hupad, huilen]
  have hcount : v.pend - v.icur = code.length := by omega
  refine ⟨u, v, hldhdr, by rw [hu], hdeser, hrebuilds, ?_, by omega, ?_⟩
  · rw [State.payloadLeft, hcount, hicur, State.inBits_congr (s := u) (by rw [hframe]) (by rw [hframe]), huin]
    exact hcode
  · rw [← hstatus, hframe, hu]

/-- Settles O54: the header is loaded, the tree is read back from its serialization, and the payload decoded, its padding left. -/
theorem decompDecodesContainer : Obligations.DecompDecodesContainer := by
  unfold Obligations.DecompDecodesContainer
  intro s tree entries padding herr hphase hempty hilen hheader hpadding hsize hleaf hmem hin hroom
  obtain ⟨u, v, hldhdr, huempty, hdeser, hrebuilds, hleft, hcur, hv⟩ :=
    container_rebuilds hilen hheader hpadding hsize hin
  have hcap : v.params.obufCap = s.params.obufCap := by rw [hv]
  obtain ⟨t, hdecall, hyields, hicur⟩ := decallBody_entries (entries := entries) hrebuilds.hasTree.tree?
    (by rwa [Tree.isLeaf_uncounted]) (by rwa [Tree.paths_uncounted]) hcur hleft (by rw [hrebuilds.olen, hcap]; omega)
  have ht := hyields.frame
  have hstatus : t.status = { s.status with rootv := true, codev := true, phase := .payload } := by rw [ht, hv]
  have hrun : decompBody s = .ok () t := by
    rw [decompBody, hldhdr, Res.bind_ok, if_neg (by rw [huempty, hempty]; decide), hdeser, Res.bind_ok, hdecall]
  have hphase' : t.status.phase = .payload := by rw [hstatus]
  refine ⟨t, ?_, ⟨by rw [hstatus]; exact herr, .inr ⟨hphase', hicur.trans (by rw [ht])⟩⟩, hphase', ?_, ?_, ?_, ?_⟩
  · rw [exec_runs rfl (by decide) herr (by simp [Status.permits, hphase]), commandBody, hrun]
    rfl
  · rw [hyields.outBytes, State.outBytes, hrebuilds.olen]
    rfl
  · exact (tree?_congr (by rw [ht]) (by rw [ht]) (by rw [ht])).trans hrebuilds.hasTree.tree?
  · intro a ha
    rw [hyields.obuf a (.inr ha), hv]
  · rw [← hstatus, ht, hv]

end Sys2Proof.Machine

/-!
PROOFS of the memory obligations, part 2: the output bit stream (R74, R77), ENC (R164) and FIN (R168, R79).
-/

namespace Sys2Proof.Machine

/-! ## The waiting bits (R36) -/

@[simp] theorem length_bits8 (v : Byte) : (bits8 v).length = 8 := by
  rw [bits8_eq, List.length_map, List.length_range]

theorem getElem?_bits8 (v : Byte) {i : Nat} (hi : i < 8) : (bits8 v)[i]? = some (v.getLsbD (7 - i)) := by
  rw [bits8_eq, List.getElem?_map, List.getElem?_range hi]
  rfl

/-- Bit by bit, ACC with a bit placed after the waiting ones (R77). -/
theorem getLsbD_accWith (s : State) (b : Bool) {i : Nat} (hi : i ≤ s.accn.toNat) :
    (s.accWith b).getLsbD (7 - i) = (s.acc.getLsbD (7 - i) || (b && decide (i = s.accn.toNat))) := by
  have hn := s.accn.isLt
  rw [State.accWith, BitVec.getLsbD_or, BitVec.getLsbD_shiftLeft, BitVec.getLsbD_setWidth, BitVec.getLsbD_ofBool]
  have hsub : 7 - i - (7 - s.accn.toNat) = 0 ↔ i = s.accn.toNat := by omega
  simp only [hsub]
  simp [show 7 - i < 8 by omega, show ¬ 7 - i < 7 - s.accn.toNat by omega, show 7 - i - (7 - s.accn.toNat) < 8 by omega,
    Bool.and_comm]

/-- The waiting bits and the bit placed after them. -/
theorem take_bits8_accWith {s : State} (h : s.AccLowZero) (b : Bool) :
    (bits8 (s.accWith b)).take (s.accn.toNat + 1) = s.waitingBits ++ [b] := by
  have hn : s.accn.toNat < 8 := s.accn.isLt
  rw [accLowZero_iff] at h
  rw [List.take_add_one, getElem?_bits8 _ hn, getLsbD_accWith s b le_rfl, h _ le_rfl hn, decide_eq_true rfl, Bool.false_or,
    Bool.and_true, Option.toList_some]
  refine congrArg (· ++ [b]) (List.ext_getElem? fun i => ?_)
  rw [State.waitingBits, List.getElem?_take, List.getElem?_take]
  split
  · next hi =>
    rw [getElem?_bits8 _ (hi.trans hn), getElem?_bits8 _ (hi.trans hn), getLsbD_accWith s b hi.le, decide_eq_false hi.ne,
      Bool.and_false, Bool.or_false]
  · rfl

/-- ACC is its waiting bits and zeros (R36). -/
theorem bits8_acc {s : State} (h : s.AccLowZero) :
    bits8 s.acc = s.waitingBits ++ List.replicate (8 - s.accn.toNat) false := by
  have hzeros : (bits8 s.acc).drop s.accn.toNat = List.replicate (8 - s.accn.toNat) false :=
    List.eq_replicate_iff.2 ⟨by rw [List.length_drop, length_bits8], h⟩
  rw [← hzeros, State.waitingBits, List.take_append_drop]

theorem waitingBits_of_accn_zero {s : State} (h : s.accn = 0) : s.waitingBits = [] := by
  rw [State.waitingBits, h]
  exact List.take_zero

/-- A byte appended to the output with nothing waiting. -/
theorem State.outBits_flushed (s : State) (v : Byte) :
    { s with obuf := Memory.write s.obuf s.olen v, olen := s.olen + 1, acc := 0, accn := 0 }.outBits =
      s.outBytes.flatMap bits8 ++ bits8 v := by
  have hbytes : { s with obuf := Memory.write s.obuf s.olen v, olen := s.olen + 1, acc := 0, accn := 0 }.outBytes =
      s.outBytes ++ [v] := s.outBytes_append v
  rw [State.outBits, hbytes, waitingBits_of_accn_zero rfl, List.append_nil, List.flatMap_append, List.flatMap_singleton]

/-! ## Bits appended to the output bit stream (R77) -/

/-- From `s` to `t` the bits have been appended to the output bit stream, and no byte of OBUF has changed but those they fill. -/
structure State.Appends (s t : State) (bits : Bits) : Prop where
  outBits : t.outBits = s.outBits ++ bits
  olen : t.olen = s.olen + (s.accn.toNat + bits.length) / 8
  accn : t.accn.toNat = (s.accn.toNat + bits.length) % 8
  low : t.AccLowZero
  obuf : ∀ a, a < s.olen ∨ t.olen ≤ a → Memory.read? t.obuf a = Memory.read? s.obuf a

theorem State.Appends.nil {s : State} (h : s.AccLowZero) : s.Appends s [] where
  outBits := (List.append_nil _).symm
  olen := by have := s.accn.isLt; simp only [List.length_nil]; omega
  accn := by have := s.accn.isLt; simp only [List.length_nil]; omega
  low := h
  obuf _ _ := rfl

theorem State.Appends.trans {s t u : State} {bs cs : Bits} (h : s.Appends t bs) (h' : t.Appends u cs) :
    s.Appends u (bs ++ cs) where
  outBits := by rw [h'.outBits, h.outBits, List.append_assoc]
  olen := by
    have holen := h'.olen
    rw [h.olen, h.accn] at holen
    rw [List.length_append]
    omega
  accn := by
    have haccn := h'.accn
    rw [h.accn] at haccn
    rw [List.length_append]
    omega
  low := h'.low
  obuf a ha := by
    have holen := h.olen
    have holen' := h'.olen
    rw [h'.obuf a (by omega), h.obuf a (by omega)]

/-- A bit that finds a free place in ACC waits there. -/
theorem appends_place {s : State} (h : s.AccLowZero) (b : Bool) (hn : s.accn ≠ 7) :
    s.Appends { s with acc := s.accWith b, accn := s.accn + 1 } [b] := by
  have hlt : s.accn.toNat < 7 := by bv_omega
  have hsucc : (s.accn + 1).toNat = s.accn.toNat + 1 := by bv_omega
  refine ⟨?_, ?_, ?_, accLowZero_place h b hn, fun _ _ => rfl⟩
  · show s.outBytes.flatMap bits8 ++ (bits8 (s.accWith b)).take (s.accn + 1).toNat = _
    rw [hsucc, take_bits8_accWith h, ← List.append_assoc]
    rfl
  · show s.olen = _
    rw [List.length_singleton]
    omega
  · show (s.accn + 1).toNat = _
    rw [List.length_singleton]
    omega

/-- The eighth waiting bit fills a byte of OBUF. -/
theorem appends_flush {s : State} (h : s.AccLowZero) (b : Bool) (hn : s.accn = 7) :
    s.Appends { s with
      obuf := Memory.write s.obuf s.olen (s.accWith b), olen := s.olen + 1, acc := 0, accn := 0 } [b] := by
  have hseven : s.accn.toNat = 7 := by rw [hn]; rfl
  have hbyte : bits8 (s.accWith b) = s.waitingBits ++ [b] := by
    rw [← take_bits8_accWith h, hseven]
    rfl
  refine ⟨?_, ?_, ?_, accLowZero_of_zero rfl, fun a ha => Memory.read?_write_other _ _ _ _ ?_⟩
  · rw [State.outBits_flushed, hbyte, ← List.append_assoc]
    rfl
  · rw [hseven, List.length_singleton]
  · rw [hseven, List.length_singleton]
    rfl
  · have ha : a < s.olen ∨ s.olen + 1 ≤ a := ha
    omega

/-- `PutBits` of bits that fit OBUF appends them to the output bit stream. -/
theorem putBits_appends {bits : Bits} {s : State} (h : s.AccLowZero)
    (hroom : s.olen + (s.accn.toNat + bits.length) / 8 ≤ s.params.obufCap) :
    ∃ t, putBits bits s = .ok () t ∧ s.Appends t bits := by
  induction bits generalizing s with
  | nil => exact ⟨s, rfl, .nil h⟩
  | cons b bits ih =>
    rw [List.length_cons] at hroom
    rcases putBit_cases b s with ⟨hn, hp⟩ | ⟨hn, _, hp⟩ | ⟨hn, hfull, _⟩
    · have happ := appends_place h b hn
      have hsucc : (s.accn + 1).toNat = s.accn.toNat + 1 := by bv_omega
      obtain ⟨t, ht, happ'⟩ := ih happ.low
        (show s.olen + ((s.accn + 1).toNat + bits.length) / 8 ≤ s.params.obufCap by omega)
      exact ⟨t, by rw [putBits, hp]; exact ht, happ.trans happ'⟩
    · have happ := appends_flush h b hn
      have hseven : s.accn.toNat = 7 := by rw [hn]; rfl
      obtain ⟨t, ht, happ'⟩ := ih happ.low
        (show s.olen + 1 + (0 + bits.length) / 8 ≤ s.params.obufCap by omega)
      exact ⟨t, by rw [putBits, hp]; exact ht, happ.trans happ'⟩
    · have hseven : s.accn.toNat = 7 := by rw [hn]; rfl
      omega

/-! ## ENC (R164) -/

/-- ENC in phase STREAM, of a symbol with a codeword, puts its bits. -/
theorem exec_enc {s : State} {sym : Byte} (herr : s.status.err = false) (hphase : s.status.phase = .stream)
    (hvalid : (s.codeOf sym).valid = true) : exec (.enc sym) s = (putBits (s.codeOf sym).bits s).outcome :=
  (exec_runs (i := .enc sym) rfl nofun herr (by simp [Status.permits, hphase])).trans (congrArg Res.outcome (if_pos hvalid))

/-- Settles O32: the codeword's bits are appended one by one. -/
theorem encAppendsCodeword : Obligations.EncAppendsCodeword := by
  unfold Obligations.EncAppendsCodeword
  intro s sym herr hphase hlow hvalid hroom
  obtain ⟨t, ht, houtBits, holen, haccn, hlow', hobuf⟩ := putBits_appends hlow hroom
  refine ⟨t, ?_, houtBits, holen, haccn, hlow', hobuf, putBits_frame _ (.of_ok ht)⟩
  rw [exec_enc herr hphase hvalid, ht]
  rfl

/-- Settles O34: the first bit of the codeword is placed in ACC, and the byte it completes finds OBUF full. -/
theorem encOverflowKeepsBytes : Obligations.EncOverflowKeepsBytes := by
  unfold Obligations.EncOverflowKeepsBytes
  intro s sym b rest herr hphase hcode haccn holen
  have hacc : s.accWith b = s.acc ||| (BitVec.ofBool b).setWidth 8 := by
    rw [State.accWith, haccn]
    exact congrArg (s.acc ||| ·) (BitVec.shiftLeft_zero _)
  have hbit : putBit b s = .raised .outputOverflow s.olen { s with acc := s.accWith b } := by
    rw [putBit, if_pos (show s.accn = 7#3 from haccn), if_pos holen.ge]
  rw [exec_enc herr hphase (by rw [hcode]), hcode, putBits, hbit, hacc, holen]
  rfl

/-! ## FIN (R168) -/

/-- The padding count is what is missing to a byte (R168). -/
theorem State.toNat_padding (s : State) : s.padding.toNat = (8 - s.accn.toNat) % 8 := BitVec.toNat_ofNat _ _

/-- What FIN's flush has done where it ends well: the zeros that fill the last byte are appended, and nothing waits. -/
structure State.Flushes (s t : State) : Prop where
  outBits : t.outBits = s.outBits ++ List.replicate s.padding.toNat false
  olen : t.olen = s.olen + (if s.accn = 0 then 0 else 1)
  acc : t.acc = 0
  accn : t.accn = 0
  obuf : ∀ a, (a ≠ s.olen ∨ s.accn = 0) → Memory.read? t.obuf a = Memory.read? s.obuf a
  frame : t = { s with obuf := t.obuf, olen := t.olen, acc := t.acc, accn := t.accn }

theorem flushPartial_flushes {s : State} (h : s.AccLowZero) (hroom : s.accn = 0 ∨ s.olen < s.params.obufCap) :
    ∃ t, flushPartial s = .ok () t ∧ s.Flushes t := by
  rcases flushPartial_cases s with ⟨hn, hf⟩ | ⟨hn, hfull, _⟩ | ⟨hn, _, hf⟩
  · have hpad : s.padding.toNat = 0 := by rw [s.toNat_padding, hn]; rfl
    refine ⟨s, hf, ⟨?_, by rw [if_pos hn]; rfl, acc_eq_zero h hn, hn, fun _ _ => rfl, rfl⟩⟩
    rw [hpad]
    exact (List.append_nil _).symm
  · exact absurd hfull (Nat.not_le.2 (hroom.resolve_left hn))
  · have hpad : s.padding.toNat = 8 - s.accn.toNat := by
      rw [s.toNat_padding]
      bv_omega
    refine ⟨_, hf, ⟨?_, by rw [if_neg hn], rfl, rfl, fun a ha => ?_, rfl⟩⟩
    · rw [State.outBits_flushed, bits8_acc h, hpad, ← List.append_assoc]
      rfl
    · exact Memory.read?_write_other _ _ _ _ (ha.resolve_right hn)

/-- The header backfill puts a byte over the first one of the output (R79). -/
theorem State.outBytes_backfill {s : State} (h : 1 ≤ s.olen) (v : Byte) :
    (s.writeObuf 0 v).outBytes = v :: s.outBytes.drop 1 := by
  obtain ⟨n, hn⟩ := Nat.exists_eq_add_of_le' h
  rw [State.outBytes, State.outBytes, State.writeObuf_olen, hn, List.range_succ_eq_map, List.map_cons, List.map_cons,
    List.map_map, List.map_map, State.writeObuf_obuf, Memory.read?_write_same]
  refine congrArg (v :: ·) (List.map_congr_left fun a _ => ?_)
  show (Memory.read? (Memory.write s.obuf 0 v) (a + 1)).getD 0 = _
  rw [Memory.read?_write_other _ _ _ _ (Nat.succ_ne_zero a)]
  rfl

/-- The output bit stream begins with the header byte. -/
theorem State.outBits_header {s : State} (h : 1 ≤ s.olen) :
    ∃ header, s.outBits = bits8 header ++ ((s.outBytes.drop 1).flatMap bits8 ++ s.waitingBits) := by
  obtain ⟨header, others, hbytes⟩ : ∃ header others, s.outBytes = header :: others := by
    refine List.exists_cons_of_length_pos ?_
    rw [State.outBytes, List.length_map, List.length_range]
    exact h
  exact ⟨header, by rw [State.outBits, hbytes, List.flatMap_cons, List.append_assoc]; rfl⟩

theorem State.eight_le_length_outBits {s : State} (h : 1 ≤ s.olen) : 8 ≤ s.outBits.length := by
  obtain ⟨header, hbits⟩ := State.outBits_header h
  rw [hbits, List.length_append, length_bits8]
  exact Nat.le_add_right _ _

theorem State.outBits_backfill {s : State} (h : 1 ≤ s.olen) (v : Byte) :
    (s.writeObuf 0 v).outBits = bits8 v ++ s.outBits.drop 8 := by
  obtain ⟨header, hbits⟩ := State.outBits_header h
  rw [hbits, List.drop_left' (length_bits8 header), State.outBits, State.outBytes_backfill h, List.flatMap_cons,
    List.append_assoc]
  rfl

/-- FIN in phase STREAM is its pseudocode. -/
theorem exec_fin {s : State} (herr : s.status.err = false) (hphase : s.status.phase = .stream) :
    exec .fin s = (finBody s).outcome :=
  exec_runs (i := .fin) rfl nofun herr (by simp [Status.permits, hphase])

/-- Settles O37: the flush appends the padding, the backfill writes its count over the header, and a flush that finds OBUF full
has changed nothing. -/
theorem finPadsAndBackfills : Obligations.FinPadsAndBackfills := by
  unfold Obligations.FinPadsAndBackfills
  intro s herr hphase hlow hheader
  refine ⟨fun hroom => ?_, fun hn hfull => ?_⟩
  · obtain ⟨u, hu, hflush⟩ := flushPartial_flushes hlow hroom
    have hframe := hflush.frame
    refine ⟨{ u.writeObuf 0 (s.padding.setWidth 8) with pad := s.padding }.setPhase .closed, ?_, s.toNat_padding, ?_, hflush.olen,
      hflush.acc, hflush.accn, fun a ha0 ha => ?_, ?_⟩
    · rw [exec_fin herr hphase, finBody, hu]
      rfl
    · refine (State.outBits_backfill (s := u) (by rw [hflush.olen]; omega) _).trans ?_
      rw [hflush.outBits, List.drop_append_of_le_length (State.eight_le_length_outBits hheader), ← List.append_assoc]
      rfl
    · exact (Memory.read?_write_other _ _ _ _ ha0).trans (hflush.obuf a ha)
    · rw [hframe]
      rfl
  · rw [exec_fin herr hphase, finBody, flushPartial, if_neg (show ¬ s.accn = 0#3 from hn), if_pos hfull.ge]
    rfl

end Sys2Proof.Machine

/-!
PROOFS of the memory obligations, part 3: what no command writes, IBUF and ILEN (R70, R73), and the stream records one by one (R88,
R111, R112).
-/

namespace Sys2Proof.Machine

/-! ## The input (R70, R73) -/

/-- The input as the host loads it: IBUF and ILEN. -/
def State.input (s : State) : Memory × Nat := (s.ibuf, s.ilen)

/-- Wherever the pseudocode ends, at its last line or at a `raise`, the input is that of `s`. -/
def Res.KeepsInput {α : Type} (r : Res α) (s : State) : Prop := ∀ t, r.EndsIn t → t.input = s.input

theorem Res.KeepsInput.bind {α β : Type} {r : Res α} {f : α → State → Res β} {s : State} (hr : r.KeepsInput s)
    (hf : ∀ a u, (f a u).KeepsInput u) : (r.bind f).KeepsInput s := by
  intro t ht
  rcases Res.endsIn_bind ht with ht | ⟨a, u, hu, ht⟩
  · exact hr t ht
  · exact (hf a u t ht).trans (hr u (.of_ok hu))

theorem Res.keepsInput_ok {α : Type} {a : α} {s t : State} (h : t.input = s.input) : (Res.ok a t).KeepsInput s :=
  fun _ hu => (congrArg State.input (Res.endsIn_ok.1 hu)).trans h

theorem addText_keepsInput (text : List Byte) (s : State) : (addText text s).KeepsInput s :=
  fun _ h => by rw [addText_frame text h]; rfl

theorem addText_singleton (sym : Byte) (s : State) : addText [sym] s = addSym sym s := by
  show (addSym sym s).bind _ = _
  cases addSym sym s <;> rfl

theorem buildBody_keepsInput (s : State) : (buildBody s).KeepsInput s := fun _ h => by rw [buildBody_frame h]; rfl

theorem sertBody_keepsInput (s : State) : (sertBody s).KeepsInput s := fun _ h => by rw [sertBody_frame h]; rfl

theorem encodeText_keepsInput (text : List Byte) (s : State) : (encodeText text s).KeepsInput s :=
  fun _ h => by rw [encodeText_frame text h]; rfl

theorem finBody_keepsInput (s : State) : (finBody s).KeepsInput s := fun _ h => by rw [finBody_frame h]; rfl

theorem ldhdrBody_keepsInput (s : State) : (ldhdrBody s).KeepsInput s := fun _ h => by rw [ldhdrBody_frame h]; rfl

theorem deserBody_keepsInput (s : State) : (deserBody s).KeepsInput s := fun _ h => by rw [deserBody_frame h]; rfl

theorem decallBody_keepsInput (s : State) : (decallBody s).KeepsInput s := fun _ h => by rw [decallBody_frame h]; rfl

theorem compBody_keepsInput (s : State) : (compBody s).KeepsInput s := by
  refine (addText_keepsInput _ s).bind fun _ u => (buildBody_keepsInput u).bind fun _ v => ?_
  split
  · exact Res.keepsInput_ok rfl
  · exact (sertBody_keepsInput v).bind fun _ w => (encodeText_keepsInput _ w).bind fun _ x => finBody_keepsInput x

theorem decompBody_keepsInput (s : State) : (decompBody s).KeepsInput s := by
  refine (ldhdrBody_keepsInput s).bind fun _ u => ?_
  split
  · exact Res.keepsInput_ok rfl
  · exact (deserBody_keepsInput u).bind fun _ v => decallBody_keepsInput v

/-- No command's pseudocode writes the input. -/
theorem commandBody_keepsInput (i : Instr) (s : State) : (commandBody i s).KeepsInput s := by
  cases i with
  | fadd sym => rw [commandBody, ← addText_singleton]; exact addText_keepsInput [sym] s
  | faddt => exact addText_keepsInput _ s
  | build => exact buildBody_keepsInput s
  | cwlk sym => exact fun _ h => by rw [cwlkBody_frame h]; rfl
  | sert => exact sertBody_keepsInput s
  | enc sym => rw [commandBody, ← encodeText_singleton]; exact encodeText_keepsInput [sym] s
  | enct => exact encodeText_keepsInput _ s
  | fin => exact finBody_keepsInput s
  | ldhdr => exact ldhdrBody_keepsInput s
  | deser => exact deserBody_keepsInput s
  | dec1 => exact fun _ h => by rw [dec1Body_frame h]; rfl
  | decall => exact decallBody_keepsInput s
  | comp => exact compBody_keepsInput s
  | decomp => exact decompBody_keepsInput s
  | fcnt sym | rewind => exact Res.keepsInput_ok rfl
  | nop | clr | hdr v | leaf sym | internal | pbit b | padbit => exact Res.keepsInput_ok rfl

theorem exec_command_input {i : Instr} {s t : State} (hi : i.place = .command) (hclr : i ≠ .clr) (h : exec i s = .next t) :
    t.input = s.input := by
  rw [exec_command hi hclr] at h
  obtain ⟨u, hu, ht⟩ := runCommand_endsIn h
  have hinput : u.input = s.input := by
    rcases hu with rfl | hu
    · rfl
    · exact commandBody_keepsInput i s u hu
  rcases ht with rfl | ⟨k, n, rfl⟩ <;> exact hinput

theorem onCmdWrite_input {w : CmdWord} {s t : State} (hw : w ≠ 0x0100#16) (h : onCmdWrite w s = .next t) :
    t.input = s.input := by
  rcases onCmdWrite_cases w s with ⟨i, hi, hplace, hexec⟩ | ⟨_, hexec⟩ <;> rw [hexec] at h
  · refine exec_command_input hplace ?_ h
    rintro rfl
    exact hw (decodeCommand_eq_clr hi)
  · cases h
    rw [illegalCommand]
    split <;> rfl

/-- Only the reset input and a host with the lock open change the input. -/
theorem hostMove_input {m : HostMove} {s t : State} (hm : m ≠ .reset) (hl : s.status.inputLocked = true)
    (h : hostMove m s = .next t) : t.input = s.input := by
  rcases hostMove_cases h with ⟨number, value, rfl⟩ | rfl | ⟨a, v, _, hopen, _⟩ | ⟨v, rfl⟩ | ⟨hr, _⟩
  · rcases writeReg_frame s number value with hw | hw | ⟨hopen, _, _⟩
    · rw [hw]; rfl
    · rw [hw]
    · exact absurd (hl.symm.trans hopen) (by decide)
  · rfl
  · exact absurd (hl.symm.trans hopen) (by decide)
  · rfl
  · exact absurd hr hm

theorem hostStep_input {s t : State} (hr : s.resetNext = false) (hl : s.status.inputLocked = true)
    (h : hostStep s = .next t) : t.input = s.input := by
  rcases hostStep_cases h with ⟨_, rfl⟩ | ⟨m, rest, hm, h⟩
  · rfl
  · refine hostMove_input (s := { s with hostMoves := rest }) ?_ hl h
    rintro rfl
    simp [State.resetNext, hm] at hr

/-- A step that does not discard the state keeps the input, if a command runs or the lock is closed. -/
theorem step_input {s t : State} (h : step s = .next t) (hd : s.discards = false)
    (hs : s.status.busy = true ∨ s.status.inputLocked = true) : t.input = s.input := by
  rw [State.discards, Bool.or_eq_false_iff] at hd
  obtain ⟨hreset, hclr⟩ := hd
  rcases step_cases h with ⟨rest, hm, _⟩ | ⟨_, hb, u, hu, rfl⟩ | ⟨_, _, p, b, ha, hr⟩ | ⟨_, hb, _, hh⟩
  · simp [State.resetNext, hm] at hreset
  · have hinput := onCmdWrite_input (by simpa [hb] using hclr) hu
    exact hinput
  · rw [recordStep_frame (awaited_ne_command ha) hr]
    rfl
  · exact hostStep_input hreset (hs.resolve_left (by simp [hb])) hh

/-- Settles O16, from the one statement about both: a command writes neither, and the host finds the lock closed. -/
theorem inputIsLockedWhileDecoding : Obligations.InputIsLockedWhileDecoding := by
  unfold Obligations.InputIsLockedWhileDecoding
  intro s t h hd
  exact ⟨fun hl => Prod.ext_iff.1 (step_input h hd (.inr hl)), fun hb => (Prod.ext_iff.1 (step_input h hd (.inl hb))).1⟩

/-! ## Stream records one by one (log 9) -/

/-- Settles O6: with no reset next and no command waiting, a step reads the awaited record and runs it. -/
theorem stepRunsRecord : Obligations.StepRunsRecord := by
  unfold Obligations.StepRunsRecord
  intro s p b i rest hreset hbusy hawaited hdecode
  have hrecord : step s = recordStep p b s := by simp [step, hreset, hbusy, hawaited]
  rw [hrecord, recordStep.eq_def, hdecode]

/-- A payload bit before PEND moves the walk to the child it selects (R111, R185). -/
theorem readPayloadBit_child {b : Bool} {start cur i : Nat} {s : State} (h : cur < s.pend) :
    readPayloadBit b start cur i s = .ok () { s with reader := .walk start (cur + 1) (s.childOf i b) } :=
  if_neg (Nat.not_le.2 h)

/-- Settles O50: a padding bit has no meaning but to be passed over, and a payload bit at an internal node selects a child. -/
theorem payloadAndPaddingBits : Obligations.PayloadAndPaddingBits := by
  unfold Obligations.PayloadAndPaddingBits
  refine fun s b => ⟨rfl, fun start cur i herr hreader hi hleaf hcur => ?_⟩
  have hexec : exec (.pbit b) s = (readPayloadBit b start cur i s).recordOutcome := by
    simp [exec, execPbit, herr, hreader, Nat.not_le.2 hi, hleaf]
  rw [hexec, readPayloadBit_child hcur]
  rfl

end Sys2Proof.Machine

/-!
PROOFS of the encoding obligations, part 1: bit sequences as numbers (R11), the map of command words in both directions (R100 to
R104), and the stream records read back from their bits (R107 to R112).
-/

namespace Sys2Proof.Machine

/-! ## Bits and numbers (R11) -/

/-- The lowest bit comes last. -/
theorem bitsOfNat_succ (n v : Nat) : bitsOfNat (n + 1) v = bitsOfNat n (v / 2) ++ [v.testBit 0] := by
  induction n generalizing v with
  | zero => rfl
  | succ n ih => rw [bitsOfNat, ih, bitsOfNat, Nat.testBit_div_two, List.cons_append]

@[simp] theorem length_bitsOfNat (n v : Nat) : (bitsOfNat n v).length = n := by
  induction n with
  | zero => rfl
  | succ n ih => rw [bitsOfNat, List.length_cons, ih]

/-- The `n` low bits of a number that fits in them spell that number. -/
theorem num_bitsOfNat {n v : Nat} (h : v < 2 ^ n) : num (bitsOfNat n v) = v := by
  induction n generalizing v with
  | zero => exact (Nat.lt_one_iff.1 h).symm
  | succ n ih =>
    rw [bitsOfNat_succ, num_append_singleton, ih (by rw [pow_succ] at h; omega)]
    exact v.bit_testBit_zero_shiftRight_one

@[simp] theorem ofNat_num_bitsOfNat {n : Nat} (v : BitVec n) : BitVec.ofNat n (num (bitsOfNat n v.toNat)) = v := by
  rw [num_bitsOfNat v.isLt, BitVec.ofNat_toNat, BitVec.setWidth_eq]

/-! ## Command words (R100 to R104) -/

theorem toNat_append_bytes (op lo : Byte) : (op ++ lo).toNat = op.toNat * 256 + lo.toNat := by
  rw [BitVec.toNat_append, ← Nat.shiftLeft_add_eq_or_of_lt lo.isLt, Nat.shiftLeft_eq]

/-- A word read by its two bytes, the opcode and the low byte (R101). -/
theorem decodeCommand_append (op lo : Byte) : decodeCommand (op ++ lo) = decodeOp op.toNat lo := by
  have hop : ((op ++ lo : CmdWord) >>> 8).toNat = op.toNat := by
    rw [BitVec.toNat_ushiftRight, toNat_append_bytes, Nat.shiftRight_eq_div_pow]
    omega
  rw [decodeCommand, hop, BitVec.setWidth_append_eq_right]

/-- A word is its opcode and its low byte, one after the other (R100). -/
theorem append_opcode_low (w : CmdWord) : BitVec.ofNat 8 (w >>> 8).toNat ++ w.setWidth 8 = w := by
  refine BitVec.eq_of_toNat_eq ((toNat_append_bytes _ _).trans ?_)
  rw [BitVec.toNat_ofNat, BitVec.toNat_setWidth, BitVec.toNat_ushiftRight, Nat.shiftRight_eq_div_pow]
  omega

theorem formatN_eq_some {i j : Instr} {lo : Byte} : formatN i lo = some j ↔ lo = 0#8 ∧ i = j := by
  rw [formatN, Option.ite_none_right_eq_some, Option.some.injEq]

theorem formatN_eq_none {i : Instr} {lo : Byte} : formatN i lo = none ↔ lo ≠ 0#8 := by
  rw [formatN, ite_eq_right_iff, imp_iff_not (Option.some_ne_none i)]

/-- The decoder reads the word of a command as that command (R103). -/
theorem decodeCommand_commandWord {i : Instr} (hi : i.place = .command) : decodeCommand (commandWord i) = some i := by
  cases i with
  | fadd sym => exact decodeCommand_append 0x10 sym
  | fcnt sym => exact decodeCommand_append 0x12 sym
  | cwlk sym => exact decodeCommand_append 0x21 sym
  | enc sym => exact decodeCommand_append 0x31 sym
  | hdr | leaf | internal | pbit | padbit => cases hi
  | _ => rfl

/-- What an opcode and a low byte decode to has them as its word (R103). -/
theorem commandWord_of_decodeOp {op : Nat} {lo : Byte} {i : Instr} (h : decodeOp op lo = some i) :
    commandWord i = BitVec.ofNat 8 op ++ lo := by
  rw [decodeOp.eq_def] at h
  split at h
  case h_3 | h_5 | h_7 | h_9 => cases h; rfl
  case h_19 => cases h
  all_goals
    obtain ⟨rfl, rfl⟩ := formatN_eq_some.1 h
    rfl

/-- Settles O2: the map of R103 keeps the opcode and the low byte. -/
theorem commandWordIsUnique : Obligations.CommandWordIsUnique := by
  unfold Obligations.CommandWordIsUnique
  intro w i h
  exact ⟨(commandWord_of_decodeOp h).trans (append_opcode_low w), decodeCommand_place h⟩

/-- The opcodes of format N (R103). -/
def formatNOpcodes : List Nat := [0x00, 0x01, 0x11, 0x20, 0x30, 0x32, 0x33, 0x40, 0x41, 0x42, 0x43, 0x44, 0x50, 0x51]

/-- The opcodes of format S (R103). -/
def formatSOpcodes : List Nat := [0x10, 0x12, 0x21, 0x31]

/-- A word with an opcode of format N is illegal exactly when its low byte is not zero (R101). -/
theorem decodeOp_eq_none_of_formatN {op : Nat} {lo : Byte} (h : op ∈ formatNOpcodes) : decodeOp op lo = none ↔ lo ≠ 0#8 := by
  simp only [formatNOpcodes, List.mem_cons, List.not_mem_nil, or_false] at h
  rcases h with rfl | rfl | rfl | rfl | rfl | rfl | rfl | rfl | rfl | rfl | rfl | rfl | rfl | rfl <;> exact formatN_eq_none

/-- A word with an opcode of format S is legal (R102). -/
theorem decodeOp_ne_none_of_formatS {op : Nat} {lo : Byte} (h : op ∈ formatSOpcodes) : decodeOp op lo ≠ none := by
  simp only [formatSOpcodes, List.mem_cons, List.not_mem_nil, or_false] at h
  rcases h with rfl | rfl | rfl | rfl <;> exact Option.some_ne_none _

/-- Every other opcode is reserved (R104). -/
theorem decodeOp_eq_none_of_reserved {op : Nat} {lo : Byte} (hn : op ∉ formatNOpcodes) (hs : op ∉ formatSOpcodes) :
    decodeOp op lo = none := by
  rw [decodeOp.eq_def]
  split
  case h_19 => rfl
  case h_3 | h_5 | h_7 | h_9 => exact absurd (by decide) hs
  all_goals exact absurd (by decide) hn

/-- Settles O3, by the opcode's format. -/
theorem illegalWordsAreTheReserved : Obligations.IllegalWordsAreTheReserved := by
  unfold Obligations.IllegalWordsAreTheReserved
  intro w
  show decodeOp (w >>> 8).toNat _ = none ↔ ((w >>> 8).toNat ∉ formatNOpcodes ∨ _) ∧ (w >>> 8).toNat ∉ formatSOpcodes
  by_cases hs : (w >>> 8).toNat ∈ formatSOpcodes
  · exact ⟨fun h => absurd h (decodeOp_ne_none_of_formatS hs), fun h => absurd hs h.2⟩
  · by_cases hn : (w >>> 8).toNat ∈ formatNOpcodes
    · rw [decodeOp_eq_none_of_formatN hn]
      exact ⟨fun h => ⟨.inr h, hs⟩, fun h => h.1.resolve_left (not_not_intro hn)⟩
    · exact ⟨fun _ => ⟨.inl hn, hs⟩, fun _ => decodeOp_eq_none_of_reserved hn hs⟩

/-- Settles O4: sixteen fixed words, each evaluated by the decoder. -/
theorem writtenOutWordsDecode : Obligations.WrittenOutWordsDecode := by
  unfold Obligations.WrittenOutWordsDecode
  decide

/-! ## Reading back an instruction (R101, R107 to R112) -/

theorem encode_command {i : Instr} (hi : i.place = .command) : encode i = bitsOfNat 16 (commandWord i).toNat := by
  cases i with
  | hdr | leaf | internal | pbit | padbit => cases hi
  | _ => rfl

theorem decodeCommandBits_encode {i : Instr} (hi : i.place = .command) (rest : Bits) :
    decodeCommandBits (encode i ++ rest) = .instr i rest := by
  have hlen : (encode i).length = 16 := by rw [encode_command hi, length_bitsOfNat]
  rw [decodeCommandBits, if_neg (by rw [List.length_append]; omega), List.take_left' hlen, List.drop_left' hlen,
    encode_command hi, ofNat_num_bitsOfNat, decodeCommand_commandWord hi]

theorem decodeHeader_bits8 {v : Byte} (hv : v.toNat < 8) (rest : Bits) :
    decodeHeader (bits8 v ++ rest) = .instr (.hdr v) rest := by
  have hnum : num (bits8 v) = v.toNat := num_bitsOfNat v.isLt
  rw [decodeHeader, if_neg (by simp), List.take_left' (length_bits8 v), List.drop_left' (length_bits8 v), hnum, if_pos hv,
    BitVec.ofNat_toNat, BitVec.setWidth_eq]

/-- Marker 0 and eight bits are the LEAF record of the symbol the bits spell (R108). -/
theorem decodeTreeRecord_leaf {s : Bits} (hs : s.length = 8) (rest : Bits) :
    decodeTreeRecord (false :: (s ++ rest)) = .instr (.leaf (symOfBits s)) rest := by
  rw [decodeTreeRecord, if_neg (by rw [List.length_append]; omega), List.take_left' hs, List.drop_left' hs]

/-- Settles O1, place by place. -/
theorem decodeInvertsEncode : Obligations.DecodeInvertsEncode := by
  unfold Obligations.DecodeInvertsEncode
  intro i rest hi
  cases i with
  | hdr v => exact decodeHeader_bits8 (of_decide_eq_true hi) rest
  | leaf sym => exact (decodeTreeRecord_leaf (s := symBits sym) (length_bits8 sym) rest).trans (by rw [symOfBits_symBits])
  | internal | pbit | padbit => rfl
  | _ => exact decodeCommandBits_encode rfl rest

end Sys2Proof.Machine

/-!
PROOFS of the encoding obligations, part 2: an illegal word (R228), the header record (R107, R181), and the tree records one by one
(R108, R109) against `Des` of a whole tree (R114, R183).
-/

namespace Sys2Proof.Machine

/-! ## An illegal word (R228) -/

/-- Settles O7: the waiting word decodes to no command, and the step ends as every command's does. -/
theorem illegalWordFaults : Obligations.IllegalWordFaults := by
  unfold Obligations.IllegalWordFaults
  intro s hreset hbusy herr hdecode
  have hword : onCmdWrite s.cmd s = .next (s.raise .illegalCommand s.cmd.toNat) := by
    simp [onCmdWrite, hdecode, illegalCommand, herr]
  rw [step_of_busy hreset hbusy, commandStep, hword]
  rfl

/-! ## The header record (R107, R181) -/

/-- A header byte of 0 to 7 is the padding count (R107). -/
theorem loadHeader_valid {v : Byte} (hv : v.toNat < 8) (s : State) :
    loadHeader v s = .ok () ({ s with pad := v.setWidth 3, icur := 8 }.setPhase .hdr) :=
  if_neg (Nat.not_lt.2 (Nat.le_of_lt_succ hv))

/-- A header byte of 8 to 255 is reserved (R115 (a)). -/
theorem loadHeader_reserved {v : Byte} (hv : 8 ≤ v.toNat) (s : State) :
    loadHeader v s = .raised .badHeader v.toNat s :=
  if_pos hv

/-- LDHDR in phase COUNT, with input present, loads the header byte (R181). -/
theorem exec_ldhdr {s : State} (herr : s.status.err = false) (hphase : s.status.phase = .count) (hilen : 1 ≤ s.ilen) :
    exec .ldhdr s = (loadHeader (s.memRead 0) s).outcome := by
  rw [exec_runs rfl (by decide) herr (by simp [Status.permits, hphase]), commandBody, ldhdrBody,
    if_neg (Nat.one_le_iff_ne_zero.1 hilen)]

/-- The record HDR in phase COUNT loads its own byte (log 9). -/
theorem exec_hdr {s : State} (herr : s.status.err = false) (hphase : s.status.phase = .count) (v : Byte) :
    exec (.hdr v) s = (loadHeader v s.leaveRecord).outcome := by
  simp [exec, execHdr, herr, hphase]

/-- Settles O39: LDHDR and HDR load a header byte by the same two rules. -/
theorem ldhdrReadsHeader : Obligations.LdhdrReadsHeader := by
  unfold Obligations.LdhdrReadsHeader
  intro s v herr hphase
  refine ⟨fun hilen hv => ?_, fun hilen hv => ?_, fun hv => ?_, fun hv => ?_⟩
  · rw [exec_ldhdr herr hphase hilen, loadHeader_valid hv]; rfl
  · rw [exec_ldhdr herr hphase hilen, loadHeader_reserved hv]; rfl
  · rw [exec_hdr herr hphase, loadHeader_valid hv]; rfl
  · rw [exec_hdr herr hphase, loadHeader_reserved hv]; rfl

/-! ## The tree records (R108, R109, R183) -/

theorem exec_leaf {s : State} {cur : Nat} {frames : List Frame} (herr : s.status.err = false)
    (hreader : s.reader = .tree cur frames) (sym : Byte) :
    exec (.leaf sym) s = (readLeaf sym cur frames s).recordOutcome := by
  simp [exec, execLeaf, herr, hreader]

theorem exec_internal {s : State} {cur : Nat} {frames : List Frame} (herr : s.status.err = false)
    (hreader : s.reader = .tree cur frames) : exec .internal s = (readInternal cur frames s).recordOutcome := by
  simp [exec, execInternal, herr, hreader]

/-- The next node taken, and written as the leaf of a symbol. -/
def State.takeLeaf (s : State) (sym : Byte) : State :=
  { s with nnode := s.nnode + 1 }.setNode s.nnode (Node.mkLeaf sym 0)

/-- A LEAF record with all its bits takes the next node (R108). -/
theorem readLeaf_takes {s : State} {cur : Nat} (hn : s.nnode < 511) (hcur : cur + 9 ≤ 8 * s.ilen) (sym : Byte)
    (frames : List Frame) :
    readLeaf sym cur frames s = .ok () (closeSubtree s.nnode (cur + 9) frames (s.takeLeaf sym)) := by
  have hbits : ¬ 8 * s.ilen - cur < 9 := by omega
  rw [readLeaf, takeNode_ok (by omega) hn, Res.bind_ok]
  exact if_neg hbits

/-- An INTERNAL record takes the next node and waits for its left subtree (R109). -/
theorem readInternal_takes {s : State} {cur : Nat} (hn : s.nnode < 511) (hcur : cur < 8 * s.ilen) (frames : List Frame) :
    readInternal cur frames s =
      .ok () { s with nnode := s.nnode + 1, reader := .tree (cur + 1) (.left s.nnode :: frames) } := by
  rw [readInternal, takeNode_ok hcur hn]
  rfl

/-- Where no node can be taken, a tree record of either kind raises that fault. -/
theorem exec_treeRecord_raises {s : State} {cur n : Nat} {frames : List Frame} {k : Cause} (herr : s.status.err = false)
    (hreader : s.reader = .tree cur frames) (htake : takeNode cur s = .raised k n s) {sym : Byte} {i : Instr}
    (hi : i ∈ [Instr.leaf sym, Instr.internal]) : exec i s = .next (s.leaveRecord.raise k n) := by
  rcases List.mem_pair.1 hi with rfl | rfl
  · rw [exec_leaf herr hreader, readLeaf, htake]; rfl
  · rw [exec_internal herr hreader, readInternal, htake]; rfl

/-- Settles O49: what a tree record does is what the taking of its node does (R183). -/
theorem treeRecordsTakeNodes : Obligations.TreeRecordsTakeNodes := by
  unfold Obligations.TreeRecordsTakeNodes
  intro s cur frames sym herr hreader
  refine ⟨fun hn hcur => ?_, fun hn hcur => ?_, fun hcur i hi => ?_, fun hcur hn i hi => ?_⟩
  · rw [exec_leaf herr hreader, readLeaf_takes hn hcur]; rfl
  · rw [exec_internal herr hreader, readInternal_takes hn hcur]; rfl
  · have htake : takeNode cur s = .raised .malformedStream cur s := if_pos hcur
    exact exec_treeRecord_raises herr hreader htake hi
  · have htake : takeNode cur s = .raised .nodeOverflow cur s := by
      rw [takeNode, if_neg (Nat.not_le.2 hcur)]
      exact if_pos hn
    exact exec_treeRecord_raises herr hreader htake hi

/-! ## A tree record by record (R114, R183) -/

/-- A run of one step or more takes a step first. -/
theorem run_succ_eq_next {M : Host.Core} {n : Nat} {s t : M.State} :
    M.run (n + 1) s = .next t ↔ ∃ u, M.step s = .next u ∧ M.run n u = .next t := by
  rw [Host.Core.run]
  cases M.step s <;> simp

/-- Some number of steps of the machine leads from `s` to `t`. -/
def State.RunsTo (s t : State) : Prop := ∃ n, Host.Core.run Sys2Proof.core n s = .next t

theorem State.RunsTo.of_step {s t : State} (h : step s = .next t) : s.RunsTo t :=
  ⟨1, run_succ_eq_next.2 ⟨t, h, rfl⟩⟩

theorem State.RunsTo.trans {s t u : State} (h : s.RunsTo t) (h' : t.RunsTo u) : s.RunsTo u := by
  obtain ⟨m, hm⟩ := h
  induction m generalizing s with
  | zero => cases hm; exact h'
  | succ m ih =>
    obtain ⟨v, hv, hm⟩ := run_succ_eq_next.1 hm
    obtain ⟨n, hn⟩ := ih hm
    exact ⟨n + 1, run_succ_eq_next.2 ⟨v, hv, hn⟩⟩

/-- The engine goes on by itself: no reset input comes, no command waits and no fault is recorded. -/
structure State.Undisturbed (s : State) : Prop where
  reset : s.resetNext = false
  busy : s.status.busy = false
  err : s.status.err = false

theorem State.Undisturbed.congr {s u : State} (h : s.Undisturbed) (hmoves : u.hostMoves = s.hostMoves)
    (hstatus : u.status = s.status) : u.Undisturbed where
  reset := by rw [State.resetNext, hmoves]; exact h.reset
  busy := hstatus ▸ h.busy
  err := hstatus ▸ h.err

/-- `Des` changes no field the engine looks at before a record. -/
theorem State.Undisturbed.after_des {s t : State} {fuel b : Nat} {r : Nat × Nat} (h : s.Undisturbed)
    (hdes : des fuel b s = .ok r t) : t.Undisturbed := by
  rw [des_frame _ _ (.of_ok hdes)]
  exact h.congr rfl rfl

/-- Before a tree record, a step reads the record at its bit and runs it. -/
theorem step_treeRecord {s : State} {b : Nat} {frames : List Frame} {i : Instr} {rest : Bits} (h : s.Undisturbed)
    (hreader : s.reader = .tree b frames) (hdecode : decodeTreeRecord (s.recordBits .tree b) = .instr i rest) :
    step s = exec i s := by
  have hawaited : s.awaited = some (.tree, b) := by simp [State.awaited, h.err, hreader]
  exact stepRunsRecord s .tree b i rest h.reset h.busy hawaited hdecode

/-- Marker 0 and all nine bits present: the record is the LEAF of the symbol that stands there (R108). -/
theorem decode_leaf_at {s : State} {b : Nat} (hmarker : s.inBit b = false) (hb : b + 9 ≤ 8 * s.ilen) :
    decodeTreeRecord (s.recordBits .tree b) = .instr (.leaf (s.leafSymbol b)) [] := by
  rw [State.recordBits, Nat.min_eq_left (by omega), State.inBits_succ, hmarker, ← List.append_nil (s.inBits (b + 1) 8)]
  exact decodeTreeRecord_leaf (s.length_inBits _ _) []

/-- Marker 1: the record is INTERNAL (R109). -/
theorem decode_internal_at {s : State} {b : Nat} (hmarker : s.inBit b = true) (hb : b < 8 * s.ilen) :
    ∃ rest, decodeTreeRecord (s.recordBits .tree b) = .instr .internal rest := by
  obtain ⟨n, hn⟩ : ∃ n, min 9 (8 * s.ilen - b) = n + 1 := Nat.exists_eq_succ_of_ne_zero (by omega)
  exact ⟨s.inBits (b + 1) n, by rw [State.recordBits, hn, State.inBits_succ, hmarker]; rfl⟩

/-- The engine before the tree record at bit `b`, with the unfinished records `frames` around it. -/
def State.atTree (s : State) (b : Nat) (frames : List Frame) : State := { s with reader := .tree b frames }

/-- Closing a subtree overwrites the reader, so it does not matter where the engine stood. -/
theorem closeSubtree_atTree (frames around : List Frame) (i cur b : Nat) (s : State) :
    closeSubtree i cur frames (s.atTree b around) = closeSubtree i cur frames s := by
  induction frames generalizing i s with
  | nil => rfl
  | cons f frames ih =>
    cases f with
    | left shell => rfl
    | right shell l => exact ih shell (s.setNode shell (Node.mkInternal l i 0))

theorem State.Undisturbed.atTree {s : State} (h : s.Undisturbed) (b : Nat) (frames : List Frame) :
    (s.atTree b frames).Undisturbed :=
  h.congr rfl rfl

/-- One step over a LEAF record completes its subtree. -/
theorem step_leaf {s : State} {b : Nat} {frames : List Frame} (h : s.Undisturbed) (hn : s.nnode < 511)
    (hmarker : s.inBit b = false) (hb : b + 9 ≤ 8 * s.ilen) :
    step (s.atTree b frames) = .next (closeSubtree s.nnode (b + 9) frames (s.takeLeaf (s.leafSymbol b))) := by
  have hexec : step (s.atTree b frames) = exec (.leaf (s.leafSymbol b)) (s.atTree b frames) :=
    step_treeRecord (h.atTree b frames) rfl (decode_leaf_at (s := s) hmarker hb)
  have hread := readLeaf_takes (s := s.atTree b frames) hn hb (s.leafSymbol b) frames
  rw [hexec, exec_leaf (h.atTree b frames).err rfl, hread]
  exact congrArg Host.Outcome.next (closeSubtree_atTree frames frames s.nnode (b + 9) b (s.takeLeaf _))

/-- One step over an INTERNAL record goes on to its left subtree. -/
theorem step_internal {s : State} {b : Nat} {frames : List Frame} (h : s.Undisturbed) (hn : s.nnode < 511)
    (hmarker : s.inBit b = true) (hb : b < 8 * s.ilen) :
    step (s.atTree b frames) = .next ({ s with nnode := s.nnode + 1 }.atTree (b + 1) (.left s.nnode :: frames)) := by
  obtain ⟨rest, hdecode⟩ := decode_internal_at (s := s.atTree b frames) hmarker hb
  have hexec : step (s.atTree b frames) = exec .internal (s.atTree b frames) :=
    step_treeRecord (h.atTree b frames) rfl hdecode
  have hread := readInternal_takes (s := s.atTree b frames) hn hb frames
  rw [hexec, exec_internal (h.atTree b frames).err rfl, hread]
  rfl

/-- The records of the tree that `Des` reads, one step each, complete the subtree that `Des` answers, whatever unfinished records
stand around it. -/
theorem run_tree {fuel b i cur : Nat} {s t : State} (frames : List Frame) (h : s.Undisturbed)
    (hdes : des fuel b s = .ok (i, cur) t) :
    (s.atTree b frames).RunsTo (closeSubtree i cur frames t) := by
  induction fuel generalizing b i cur s t frames with
  | zero => cases hdes
  | succ fuel ih =>
    rw [des] at hdes
    rcases takeNode_cases b s with ⟨_, htake⟩ | ⟨_, _, htake⟩ | ⟨hb, hn, htake⟩ <;> rw [htake] at hdes
    · cases hdes
    · cases hdes
    · rw [Res.bind_ok] at hdes
      split at hdes
      · next hmarker =>
        split at hdes
        · cases hdes
        · next hbits =>
          cases hdes
          have hbits : ¬ 8 * s.ilen - b < 9 := hbits
          exact .of_step (step_leaf h hn hmarker (by omega))
      · next hmarker =>
        have hmarker : s.inBit b = true := eq_true_of_ne_false hmarker
        obtain ⟨⟨l, cl⟩, u, hl, hdes⟩ := Res.bind_eq_ok.1 hdes
        obtain ⟨⟨r, cr⟩, v, hr, hdes⟩ := Res.bind_eq_ok.1 hdes
        cases hdes
        have hshell : { s with nnode := s.nnode + 1 }.Undisturbed := h.congr rfl rfl
        have hleft := ih (.left s.nnode :: frames) hshell hl
        have hright := ih (.right s.nnode l :: frames) (hshell.after_des hl) hr
        exact (State.RunsTo.of_step (step_internal h hn hmarker hb)).trans (hleft.trans hright)

/-- Settles O51: `run_tree` with no unfinished record around the tree. -/
theorem recordByRecordReadsTree : Obligations.RecordByRecordReadsTree := by
  unfold Obligations.RecordByRecordReadsTree
  intro fuel b i cur s t hreset hbusy herr hreader hdes
  have hs : s.atTree b [] = s := by rw [State.atTree, ← hreader]
  exact hs ▸ run_tree [] ⟨hreset, hbusy, herr⟩ hdes

end Sys2Proof.Machine

/-!
PROOFS of the frequency table's obligations: FADD (R131), FADDT (R132, R133, R135) and FCNT (R134).
-/

namespace Sys2Proof.Machine

/-! ## One symbol (R130) -/

/-- From `s` to `t` AddSym has counted one symbol (R130). -/
structure State.CountsSym (s t : State) (sym : Byte) : Prop where
  freq : ∀ x, t.freqOf x = if x = sym then s.freqOf sym + 1 else s.freqOf x
  order : t.orderList = if s.freqOf sym = 0 then s.orderList ++ [sym] else s.orderList
  total : t.total = s.total + 1
  frame : t = { s with freq := t.freq, order := t.order, nsym := t.nsym, total := t.total }

theorem addSym_countsSym {s : State} {sym : Byte} (ht : s.total < s.params.countMax)
    (hn : s.freqOf sym = 0 → s.nsym < 256) : ∃ t, addSym sym s = .ok () t ∧ s.CountsSym t sym := by
  rcases addSym_cases sym s with ⟨hfull, _⟩ | ⟨_, hf, hnsym, _⟩ | ⟨_, hf, hnsym, hp⟩ | ⟨_, hf, hp⟩
  · omega
  · exact absurd (hn hf) (Nat.not_lt.2 hnsym)
  · refine ⟨_, hp, fun x => ?_, ?_, rfl, rfl⟩
    · rw [hf]
      exact freqOf_of_set rfl x
    · rw [if_pos hf]
      exact orderList_append hnsym rfl rfl
  · exact ⟨_, hp, freqOf_of_set rfl, (if_neg hf).symm, rfl, rfl⟩

/-- Settles O18: the three cases are the overflow, the count and the wrong phase. -/
theorem faddCountsSymbol : Obligations.FaddCountsSymbol := by
  unfold Obligations.FaddCountsSymbol
  intro s sym herr
  have hruns (hphase : s.status.phase = .count) : exec (.fadd sym) s = (addSym sym s).outcome :=
    exec_runs (i := .fadd sym) rfl nofun herr (by simp [Status.permits, hphase])
  refine ⟨rfl, fun hphase ht hn => ?_, fun hphase ht => ?_, fun hphase => ?_⟩
  · obtain ⟨t, hadd, hcounts⟩ := addSym_countsSym ht hn
    refine ⟨t, by rw [hruns hphase, hadd]; rfl, ?_, fun other hother => ?_, hcounts.total, hcounts.order, hcounts.frame⟩
    · rw [hcounts.freq, if_pos rfl]
    · rw [hcounts.freq, if_neg hother]
  · rw [hruns hphase, addSym, if_pos ht.ge]
    rfl
  · rw [exec_command (i := .fadd sym) rfl nofun, runCommand, if_neg (by simp [herr]),
      if_neg (by simp [Status.permits, hphase])]
    rfl

/-- Settles O21: reading a count is legal in every phase. -/
theorem fcntReadsCount : Obligations.FcntReadsCount := by
  unfold Obligations.FcntReadsCount
  exact fun s sym => ⟨rfl, fun herr => exec_runs (i := .fcnt sym) rfl nofun herr rfl⟩

/-! ## A text (R132) -/

/-- While a symbol is not counted there is a free rank in ORDER (R39). -/
theorem State.FreqOk.nsym_lt {s : State} (hs : s.FreqOk) {sym : Byte} (hf : s.freqOf sym = 0) : s.nsym < 256 := by
  have hnew : sym ∉ s.orderList := by rw [hs.mem_iff, hf]; decide
  have hnodup : ((sym :: s.orderList).map BitVec.toFin).Nodup :=
    (List.nodup_cons.2 ⟨hnew, hs.nodup⟩).map fun _ _ => BitVec.toFin_inj.1
  have hcard := hnodup.length_le_card
  rw [List.length_map, List.length_cons, State.orderList, List.length_map, List.length_range, Fintype.card_fin] at hcard
  exact hcard

/-- From `s` to `t` the text has been counted, its new symbols ranked by first occurrence (R132, R135 (a)). -/
structure State.CountsText (s t : State) (text : List Byte) : Prop where
  freq : ∀ x, t.freqOf x = s.freqOf x + text.count x
  order : t.orderList = s.orderList ++ firstSeen s.orderList text
  total : t.total = s.total + text.length

theorem State.CountsText.nil (s : State) : s.CountsText s [] := ⟨fun _ => rfl, (List.append_nil _).symm, rfl⟩

theorem State.CountsSym.cons {s u t : State} {sym : Byte} {text : List Byte} (hs : s.FreqOk) (h : s.CountsSym u sym)
    (h' : u.CountsText t text) : s.CountsText t (sym :: text) where
  freq x := by
    rw [h'.freq, h.freq, List.count_cons]
    by_cases hx : x = sym
    · subst hx
      rw [if_pos rfl, BEq.rfl, if_pos rfl, Nat.add_assoc, Nat.add_comm 1]
    · simp [hx, Ne.symm hx]
  order := by
    rw [h'.order, h.order, firstSeen]
    by_cases hf : s.freqOf sym = 0
    · have hnew : sym ∉ s.orderList := by rw [hs.mem_iff, hf]; decide
      rw [if_pos hf, if_neg hnew, List.append_assoc]
      rfl
    · rw [if_neg hf, if_pos ((hs.mem_iff sym).2 (Nat.one_le_iff_ne_zero.2 hf))]
  total := by rw [h'.total, h.total, List.length_cons, Nat.add_assoc, Nat.add_comm 1]

/-- A text whose counts fit is counted to its end. -/
theorem addText_countsText {text : List Byte} {s : State} (hs : s.FreqOk)
    (hfits : s.total + text.length ≤ s.params.countMax) :
    ∃ t, addText text s = .ok () t ∧ s.CountsText t text := by
  induction text generalizing s with
  | nil => exact ⟨s, rfl, .nil s⟩
  | cons sym text ih =>
    rw [List.length_cons] at hfits
    obtain ⟨u, hadd, hsym⟩ := addSym_countsSym (s := s) (sym := sym) (by omega) hs.nsym_lt
    have hparams : u.params = s.params := by rw [hsym.frame]
    obtain ⟨t, ht, htext⟩ := ih ((addSym_tableGrows (.of_ok hadd)).freqOk hs) (by rw [hsym.total, hparams]; omega)
    exact ⟨t, by rw [addText, hadd, Res.bind_ok, ht], hsym.cons hs htext⟩

theorem addText_append (before after : List Byte) (s : State) :
    addText (before ++ after) s = (addText before s).bind fun _ u => addText after u := by
  induction before generalizing s with
  | nil => rfl
  | cons sym before ih => simp only [List.cons_append, addText, Res.bind_assoc, ih]

@[simp] theorem State.length_inputText (s : State) : s.inputText.length = s.ilen := by
  rw [State.inputText, List.length_map, List.length_range]

/-- FADDT in phase COUNT counts the input text. -/
theorem exec_faddt {s : State} (herr : s.status.err = false) (hphase : s.status.phase = .count) :
    exec .faddt s = (addText s.inputText s).outcome :=
  exec_runs (i := .faddt) rfl nofun herr (by simp [Status.permits, hphase])

/-- Settles O19, by induction on the text. -/
theorem faddtCountsText : Obligations.FaddtCountsText := by
  unfold Obligations.FaddtCountsText
  intro s hs herr hphase hfits
  obtain ⟨t, ht, hcounts⟩ := addText_countsText (text := s.inputText) hs (by rwa [s.length_inputText])
  refine ⟨t, ?_, hcounts.freq, hcounts.order, by rw [hcounts.total, s.length_inputText], addText_frame _ (.of_ok ht)⟩
  rw [exec_faddt herr hphase, ht]
  rfl

/-- Settles O20: the bytes that fit are counted as a text of their own, and the next one finds TOTAL full. -/
theorem faddtOverflowKeepsCounted : Obligations.FaddtOverflowKeepsCounted := by
  unfold Obligations.FaddtOverflowKeepsCounted
  intro s sym rest hs herr hphase hdrop
  have htotal := hs.total_le
  have hlength := congrArg List.length hdrop
  rw [List.length_drop, List.length_cons] at hlength
  have hcounted : (s.inputText.take (s.params.countMax - s.total)).length = s.params.countMax - s.total := by
    rw [List.length_take]
    omega
  obtain ⟨u, hu, hcounts⟩ := addText_countsText (text := s.inputText.take (s.params.countMax - s.total)) hs (by omega)
  have hframe := addText_frame _ (.of_ok hu)
  have hfull : u.total = s.params.countMax := by rw [hcounts.total, hcounted]; omega
  have hraise : addSym sym u = .raised .countOverflow sym.toNat u := by
    rw [addSym, if_pos (by rw [hfull, hframe])]
  refine ⟨u.raise .countOverflow sym.toNat, ?_, ?_, rfl, rfl, hfull, hcounts.freq, ?_⟩
  · rw [exec_faddt herr hphase, ← List.take_append_drop (s.params.countMax - s.total) s.inputText, addText_append, hu,
      Res.bind_ok, hdrop, addText, hraise]
    rfl
  · rw [hframe]
    rfl
  · rw [hframe]
    rfl

end Sys2Proof.Machine

/-!
PROOFS about the tree of BUILD: the sorted list of R140 is the two queues of R145 (b), merged, so the repeated stable sort makes
the tree of the two-queue construction.
-/

namespace Sys2Proof.Machine

/-! ## The stable sort (R142) -/

/-- `x` is put after, and `y` before, the elements of equal count, so neither notices which was put first. -/
theorem insertByCount_orderedInsert (count : Nat → Nat) (x y : Nat) (l : List Nat) :
    insertByCount count x (l.orderedInsert (fun a b => count a ≤ count b) y) =
      (insertByCount count x l).orderedInsert (fun a b => count a ≤ count b) y := by
  have hswap (l : List Nat) : (if count x < count y then x :: y :: l else y :: x :: l) =
      if count y ≤ count x then y :: x :: l else x :: y :: l := by
    rcases Nat.lt_or_ge (count x) (count y) with hxy | hxy
    · rw [if_pos hxy, if_neg (Nat.not_le.2 hxy)]
    · rw [if_neg (Nat.not_lt.2 hxy), if_pos hxy]
  induction l with
  | nil => exact hswap []
  | cons z l ih =>
    rw [List.orderedInsert_cons, insertByCount]
    by_cases hyz : count y ≤ count z <;> by_cases hxz : count x < count z
    · simp [insertByCount, hyz, hxz, hswap]
    · simp [insertByCount, hyz, hxz, show ¬ count x < count y by omega]
    · simp [insertByCount, hyz, hxz, show ¬ count y ≤ count x by omega]
    · simp [insertByCount, hyz, hxz, ih]

theorem stableSort_cons (count : Nat → Nat) (y : Nat) (l : List Nat) :
    stableSort count (y :: l) = (stableSort count l).orderedInsert (fun a b => count a ≤ count b) y := by
  have hfold (sorted : List Nat) :
      l.foldl (fun sorted x => insertByCount count x sorted) (sorted.orderedInsert (fun a b => count a ≤ count b) y) =
        (l.foldl (fun sorted x => insertByCount count x sorted) sorted).orderedInsert
          (fun a b => count a ≤ count b) y := by
    induction l generalizing sorted with
    | nil => rfl
    | cons x l ih => rw [List.foldl_cons, insertByCount_orderedInsert, ih, List.foldl_cons]
  exact hfold []

theorem stableSort_append_singleton (count : Nat → Nat) (x : Nat) (l : List Nat) :
    stableSort count (l ++ [x]) = insertByCount count x (stableSort count l) := by
  rw [stableSort, List.foldl_append]
  rfl

/-- The library's merge sort, which is stable, puts the head of the list before its equals. -/
theorem mergeSort_cons_byCount (count : Nat → Nat) (y : Nat) (l : List Nat) :
    (y :: l).mergeSort (fun a b => decide (count a ≤ count b)) =
      (l.mergeSort fun a b => decide (count a ≤ count b)).orderedInsert (fun a b => count a ≤ count b) y := by
  have htrans (a b c : Nat) (hab : decide (count a ≤ count b) = true) (hbc : decide (count b ≤ count c) = true) :
      decide (count a ≤ count c) = true :=
    decide_eq_true ((of_decide_eq_true hab).trans (of_decide_eq_true hbc))
  have htotal (a b : Nat) : (decide (count a ≤ count b) || decide (count b ≤ count a)) = true := by
    simpa using Nat.le_total _ _
  obtain ⟨before, after, hcons, hl, hbefore⟩ := List.mergeSort_cons htrans htotal y l
  have hsorted := List.pairwise_mergeSort htrans htotal (y :: l)
  rw [hcons] at hsorted ⊢
  rw [hl]
  have hafter : ∀ b ∈ after, count y ≤ count b := fun b hb =>
    of_decide_eq_true ((List.pairwise_cons.1 (List.pairwise_append.1 hsorted).2.1).1 b hb)
  clear hcons hl hsorted
  induction before with
  | nil =>
    cases after with
    | nil => rfl
    | cons b after => exact (if_pos (hafter b List.mem_cons_self)).symm
  | cons b before ih =>
    have hb : ¬ count y ≤ count b := by simpa using hbefore b List.mem_cons_self
    rw [List.cons_append, List.cons_append, List.orderedInsert_cons, if_neg hb,
      ih fun c hc => hbefore c (List.mem_cons_of_mem _ hc)]

/-- `StableSort` is the library's merge sort by count. -/
theorem stableSort_eq_mergeSort (count : Nat → Nat) (l : List Nat) :
    stableSort count l = l.mergeSort fun a b => decide (count a ≤ count b) := by
  induction l with
  | nil => rw [List.mergeSort_nil]; rfl
  | cons y l ih => rw [stableSort_cons, mergeSort_cons_byCount, ih]

theorem stableSort_pairwise (count : Nat → Nat) (l : List Nat) :
    (stableSort count l).Pairwise fun a b => count a ≤ count b := by
  rw [stableSort_eq_mergeSort]
  refine (List.pairwise_mergeSort ?_ ?_ l).imp of_decide_eq_true
  · exact fun a b c hab hbc => decide_eq_true ((of_decide_eq_true hab).trans (of_decide_eq_true hbc))
  · exact fun a b => by simpa using Nat.le_total _ _

theorem stableSort_of_pairwise {count : Nat → Nat} {l : List Nat} (h : l.Pairwise fun a b => count a ≤ count b) :
    stableSort count l = l := by
  rw [stableSort_eq_mergeSort]
  exact List.mergeSort_of_pairwise (h.imp decide_eq_true)

/-! ## Two queues as one list (R145 (b)) -/

/-- The trees of two queues in the order in which `takeLowest` takes them. -/
def queuesMerged (q1 q2 : List Tree) : List Tree := q1.merge q2 fun a b => decide (a.count ≤ b.count)

@[simp] theorem queuesMerged_nil_left (q : List Tree) : queuesMerged [] q = q := List.nil_merge q

@[simp] theorem queuesMerged_nil_right (q : List Tree) : queuesMerged q [] = q := List.merge_right q

theorem queuesMerged_cons_cons (x y : Tree) (q1 q2 : List Tree) :
    queuesMerged (x :: q1) (y :: q2) =
      if x.count ≤ y.count then x :: queuesMerged q1 (y :: q2) else y :: queuesMerged (x :: q1) q2 := by
  rw [queuesMerged, List.cons_merge_cons]
  exact if_congr decide_eq_true_iff rfl rfl

/-- `takeLowest` takes the first tree of the merged queues, and leaves queues that merge to the rest. -/
theorem takeLowest_of_merged {q1 q2 ts : List Tree} {t : Tree} (h : queuesMerged q1 q2 = t :: ts) :
    ∃ p1 p2, takeLowest q1 q2 = some (t, p1, p2) ∧ queuesMerged p1 p2 = ts ∧ p2 ⊆ q2 := by
  cases q1 with
  | nil =>
    rw [queuesMerged_nil_left] at h
    exact ⟨[], ts, by rw [h]; rfl, queuesMerged_nil_left ts, h ▸ List.subset_cons_self t ts⟩
  | cons x q1 =>
    cases q2 with
    | nil =>
      rw [queuesMerged_nil_right, List.cons.injEq] at h
      obtain ⟨rfl, rfl⟩ := h
      exact ⟨q1, [], rfl, queuesMerged_nil_right q1, List.Subset.refl _⟩
    | cons y q2 =>
      rw [queuesMerged_cons_cons] at h
      split at h
      · next hle =>
        obtain ⟨rfl, rfl⟩ := List.cons.inj h
        exact ⟨q1, y :: q2, if_pos hle, rfl, List.Subset.refl _⟩
      · next hle =>
        obtain ⟨rfl, rfl⟩ := List.cons.inj h
        exact ⟨x :: q1, q2, if_neg hle, rfl, List.subset_cons_self y q2⟩

theorem takeLowest_of_merged_nil {q1 q2 : List Tree} (h : queuesMerged q1 q2 = []) : takeLowest q1 q2 = none := by
  rw [queuesMerged, ← List.length_eq_zero_iff, List.length_merge, Nat.add_eq_zero_iff, List.length_eq_zero_iff,
    List.length_eq_zero_iff] at h
  rw [h.1, h.2]
  rfl

/-- A tree put at the end of the second queue comes, in the merged order, after all trees of no greater count. -/
theorem queuesMerged_append {q1 q2 : List Tree} {t : Tree} (h : ∀ y ∈ q2, y.count ≤ t.count) :
    queuesMerged q1 (q2 ++ [t]) = (queuesMerged q1 q2).orderedInsert (fun a b => a.count < b.count) t := by
  induction q1 generalizing q2 with
  | nil =>
    rw [queuesMerged_nil_left, queuesMerged_nil_left]
    induction q2 with
    | nil => rfl
    | cons y q2 ih =>
      obtain ⟨hy, hq2⟩ := List.forall_mem_cons.1 h
      rw [List.orderedInsert_cons, if_neg (Nat.not_lt.2 hy), ← ih hq2, List.cons_append]
  | cons x q1 ih1 =>
    induction q2 with
    | nil =>
      have hq1 := ih1 (q2 := []) h
      rw [List.nil_append, queuesMerged_nil_right] at hq1
      rw [List.nil_append, queuesMerged_cons_cons, queuesMerged_nil_right, List.orderedInsert_cons, hq1]
      by_cases hx : x.count ≤ t.count
      · rw [if_pos hx, if_neg (Nat.not_lt.2 hx)]
      · rw [if_neg hx, if_pos (Nat.not_le.1 hx)]
    | cons y q2 ih2 =>
      obtain ⟨hy, hq2⟩ := List.forall_mem_cons.1 h
      rw [List.cons_append, queuesMerged_cons_cons, queuesMerged_cons_cons]
      by_cases hx : x.count ≤ y.count
      · rw [if_pos hx, if_pos hx, ← List.cons_append, ih1 h, List.orderedInsert_cons, if_neg (by omega)]
      · rw [if_neg hx, if_neg hx, ih2 hq2, List.orderedInsert_cons, if_neg (by omega)]

theorem twoQueues_single {fuel : Nat} {q1 q2 : List Tree} {t : Tree} (h : queuesMerged q1 q2 = [t]) :
    twoQueues (fuel + 1) q1 q2 = some t := by
  obtain ⟨p1, p2, htake, hrest, -⟩ := takeLowest_of_merged h
  rw [twoQueues, htake]
  simp only [takeLowest_of_merged_nil hrest]

/-- One turn of the two-queue construction: the two lowest trees become one, at the end of the second queue. -/
theorem twoQueues_merge {q1 q2 ts : List Tree} {a b : Tree} (h : queuesMerged q1 q2 = a :: b :: ts) :
    ∃ p1 p2, queuesMerged p1 p2 = ts ∧ p2 ⊆ q2 ∧
      ∀ fuel, twoQueues (fuel + 1) q1 q2 = twoQueues fuel p1 (p2 ++ [.internal (a.count + b.count) a b]) := by
  obtain ⟨p1, p2, htake, hrest, hp2⟩ := takeLowest_of_merged h
  obtain ⟨r1, r2, htake', hrest', hr2⟩ := takeLowest_of_merged hrest
  refine ⟨r1, r2, hrest', List.Subset.trans hr2 hp2, fun fuel => ?_⟩
  rw [twoQueues, htake]
  simp only [htake']

/-- No tree of the second queue is heavier than any two trees together. -/
def QueuesBounded (q1 q2 : List Tree) : Prop :=
  ∃ m, (∀ t ∈ queuesMerged q1 q2, m ≤ t.count) ∧ ∀ t ∈ q2, t.count ≤ 2 * m

/-- A merge of the two lowest trees makes a tree no lighter than the second queue's, and keeps the bound. -/
theorem QueuesBounded.merge {q1 q2 p1 p2 ts : List Tree} {a b : Tree} (h : QueuesBounded q1 q2)
    (hq : queuesMerged q1 q2 = a :: b :: ts) (hsorted : (a :: b :: ts).Pairwise fun x y => x.count ≤ y.count)
    (hp : queuesMerged p1 p2 = ts) (hsub : p2 ⊆ q2) :
    (∀ t ∈ p2, t.count ≤ a.count + b.count) ∧ QueuesBounded p1 (p2 ++ [.internal (a.count + b.count) a b]) := by
  obtain ⟨m, hm, hq2⟩ := h
  rw [hq] at hm
  have hma := hm a (by simp)
  have hmb := hm b (by simp)
  obtain ⟨ha, hrest⟩ := List.pairwise_cons.1 hsorted
  obtain ⟨hb, -⟩ := List.pairwise_cons.1 hrest
  have hab := ha b List.mem_cons_self
  have hle (t : Tree) (ht : t ∈ p2) : t.count ≤ a.count + b.count := by
    have := hq2 t (hsub ht)
    omega
  refine ⟨hle, b.count, fun t ht => ?_, fun t ht => ?_⟩
  · rw [queuesMerged_append hle, hp, List.mem_orderedInsert] at ht
    rcases ht with rfl | ht
    · exact Nat.le_add_left _ _
    · exact hb t ht
  · rcases List.mem_append.1 ht with ht | ht
    · have := hle t ht
      omega
    · rw [List.mem_singleton.1 ht]
      show a.count + b.count ≤ _
      omega

/-! ## The working list of BUILD as a list of trees -/

/-- The trees that stand under the indices of the working list, in the list's order. -/
def State.HoldsTrees (s : State) (roots : List Nat) (trees : List Tree) : Prop :=
  List.Forall₂ (fun i t => ∃ is, s.HoldsTree i t is) roots trees

theorem State.HoldsTrees.counts {s : State} {roots : List Nat} {trees : List Tree} (h : s.HoldsTrees roots trees) :
    trees.map Tree.count = roots.map s.nodeCount := by
  induction h with
  | nil => rfl
  | cons hroot _ ih =>
    obtain ⟨_, hholds⟩ := hroot
    rw [List.map_cons, List.map_cons, hholds.count_eq, ih]

/-- The working list is sorted exactly when its trees are. -/
theorem State.HoldsTrees.pairwise_iff {s : State} {roots : List Nat} {trees : List Tree} (h : s.HoldsTrees roots trees) :
    (trees.Pairwise fun a b => a.count ≤ b.count) ↔ roots.Pairwise fun a b => s.nodeCount a ≤ s.nodeCount b := by
  have htrees : (trees.map Tree.count).Pairwise (· ≤ ·) ↔ _ := List.pairwise_map
  rw [← htrees, h.counts, List.pairwise_map]

theorem State.HoldsTrees.insert {s : State} {roots : List Nat} {trees : List Tree} {i : Nat} {t : Tree} {is : List Nat}
    (h : s.HoldsTrees roots trees) (hi : s.HoldsTree i t is) :
    s.HoldsTrees (insertByCount s.nodeCount i roots) (trees.orderedInsert (fun a b => a.count < b.count) t) := by
  induction h with
  | nil => exact .cons ⟨is, hi⟩ .nil
  | @cons j u roots trees hroot hrest ih =>
    obtain ⟨js, hj⟩ := hroot
    rw [insertByCount, List.orderedInsert_cons, ← hi.count_eq, ← hj.count_eq]
    split
    · exact .cons ⟨is, hi⟩ (.cons ⟨js, hj⟩ hrest)
    · exact .cons ⟨js, hj⟩ ih

theorem State.HoldsTree.lt_of_mem {s : State} {i : Nat} {t : Tree} {is : List Nat} (h : s.HoldsTree i t is) {j : Nat}
    (hj : j ∈ is) : j < s.nnode := by
  induction h with
  | leaf hi _ => rwa [List.mem_singleton.1 hj]
  | internal hi _ _ _ ihl ihr =>
    rcases List.mem_cons.1 hj with rfl | hj
    · exact hi
    · exact (List.mem_append.1 hj).elim ihl ihr

/-- One tree stands under a node. -/
theorem State.HoldsTree.unique {s : State} {i : Nat} {t u : Tree} {is js : List Nat} (h : s.HoldsTree i t is)
    (h' : s.HoldsTree i u js) : t = u :=
  Option.some.inj ((h.treeAt? (le_max_left _ _)).symm.trans (h'.treeAt? (le_max_right _ _)))

/-- A merge step leaves the trees of the store where they are. -/
theorem State.HoldsTree.merged {s : State} {i : Nat} {t : Tree} {is : List Nat} (h : s.HoldsTree i t is)
    (hn : s.nnode < 511) (a b : Nat) : (s.merged a b).HoldsTree i t is :=
  h.congr (Nat.le_succ _) fun _ hj => (State.nodeAt_setNode hn _ _).trans (if_neg (h.lt_of_mem hj).ne)

/-- The tree that a merge step makes (R143). -/
theorem State.HoldsTree.merge {s : State} {a b : Nat} {ta tb : Tree} {as bs : List Nat} (ha : s.HoldsTree a ta as)
    (hb : s.HoldsTree b tb bs) (hn : s.nnode < 511) :
    (s.merged a b).HoldsTree s.nnode (.internal (ta.count + tb.count) ta tb) (s.nnode :: (as ++ bs)) := by
  rw [ha.count_eq, hb.count_eq]
  refine ha.join hb hn (fun hmem => ?_) (Nat.lt_succ_self _) (Nat.le_succ _) rfl
  exact absurd ((List.mem_append.1 hmem).elim ha.lt_of_mem hb.lt_of_mem) (lt_irrefl _)

/-- The merge loop of BUILD makes the tree that the two queues make, where the working list is the two queues, merged. -/
theorem mergeAll_twoQueues {fuel : Nat} {roots : List Nat} {s u : State} {q1 q2 : List Tree} {root : Nat}
    (hm : mergeAll fuel roots s = .ok root u) (h : s.HoldsTrees roots (queuesMerged q1 q2)) (hq : QueuesBounded q1 q2)
    (hsorted : roots.Pairwise fun a b => s.nodeCount a ≤ s.nodeCount b) (hfuel : roots.length ≤ fuel)
    (hroom : s.nnode + roots.length ≤ 512) :
    ∃ tree is, u.HoldsTree root tree is ∧ twoQueues fuel q1 q2 = some tree := by
  induction fuel generalizing roots s q1 q2 with
  | zero =>
    rw [List.length_eq_zero_iff.1 (Nat.le_zero.1 hfuel)] at hm
    cases hm
  | succ fuel ih =>
    match roots with
    | [] => cases hm
    | [i] =>
      cases hm
      obtain ⟨t, ts, ⟨is, hi⟩, hts, hmerged⟩ := List.forall₂_cons_left_iff.1 h
      rw [List.forall₂_nil_left_iff.1 hts] at hmerged
      exact ⟨t, is, hi, twoQueues_single hmerged⟩
    | a :: b :: rest =>
      obtain ⟨ta, _, ⟨as, ha⟩, htail, hmerged⟩ := List.forall₂_cons_left_iff.1 h
      obtain ⟨tb, ts, ⟨bs, hb⟩, hts, rfl⟩ := List.forall₂_cons_left_iff.1 htail
      simp only [List.length_cons] at hfuel hroom
      have hn : s.nnode < 511 := by omega
      obtain ⟨p1, p2, hp, hsub, hstep⟩ := twoQueues_merge hmerged
      have htrees := h.pairwise_iff.2 hsorted
      rw [hmerged] at htrees
      obtain ⟨hle, hbounded⟩ := hq.merge hmerged htrees hp hsub
      have hrest : (s.merged a b).HoldsTrees rest ts := hts.imp fun _ _ ⟨is, hi⟩ => ⟨is, hi.merged hn a b⟩
      have hrestSorted := hrest.pairwise_iff.1 (List.pairwise_cons.1 (List.pairwise_cons.1 htrees).2).2
      have hworking : stableSort (s.merged a b).nodeCount (rest ++ [s.nnode]) =
          insertByCount (s.merged a b).nodeCount s.nnode rest := by
        rw [stableSort_append_singleton, stableSort_of_pairwise hrestSorted]
      have hholds : (s.merged a b).HoldsTrees (stableSort (s.merged a b).nodeCount (rest ++ [s.nnode]))
          (queuesMerged p1 (p2 ++ [.internal (ta.count + tb.count) ta tb])) := by
        rw [hworking, queuesMerged_append hle, hp]
        exact hrest.insert (ha.merge hb hn)
      have hlength := (stableSort_perm (s.merged a b).nodeCount (rest ++ [s.nnode])).length_eq
      rw [List.length_append, List.length_singleton] at hlength
      rw [mergeAll] at hm
      rw [hstep]
      exact ih hm hholds hbounded (stableSort_pairwise _ _) (by omega) (by rw [State.merged_nnode]; omega)

/-! ## BUILD (R140, R145) -/

/-- The leaves of the table, stably sorted, stand in the order in which BUILD's working list starts. -/
theorem leafTrees_hold {s : State} (hn : s.nsym ≤ 256) :
    s.withLeaves.HoldsTrees (stableSort s.withLeaves.nodeCount (List.range s.nsym))
      (s.leafTrees.mergeSort fun a b => decide (a.count ≤ b.count)) := by
  have hnode (i : Nat) (hi : i ∈ List.range s.nsym) := withLeaves_nodeAt hn (List.mem_range.1 hi)
  have hcount (i : Nat) (hi : i ∈ List.range s.nsym) : s.withLeaves.nodeCount i = s.freqOf (s.orderAt i) := by
    rw [State.nodeCount, hnode i hi]
    rfl
  have hleaves : s.leafTrees = (List.range s.nsym).map fun i => .leaf (s.freqOf (s.orderAt i)) (s.orderAt i) :=
    List.map_map
  have hsame (a : Nat) (ha : a ∈ List.range s.nsym) (b : Nat) (hb : b ∈ List.range s.nsym) :
      decide (s.withLeaves.nodeCount a ≤ s.withLeaves.nodeCount b) =
        decide (s.freqOf (s.orderAt a) ≤ s.freqOf (s.orderAt b)) := by rw [hcount a ha, hcount b hb]
  rw [stableSort_eq_mergeSort, hleaves, ← List.map_mergeSort hsame, State.HoldsTrees, List.forall₂_map_right_iff,
    List.forall₂_same]
  intro i hi
  have hi := List.mem_mergeSort.1 hi
  have h := State.HoldsTree.leaf (s := s.withLeaves) (i := i) (List.mem_range.1 hi) (by rw [hnode i hi]; rfl)
  rw [hnode i hi] at h
  exact ⟨_, h⟩

/-- The tree that BUILD leaves is the tree of the two-queue construction, counts included (R145 (b)). -/
theorem buildBody_twoQueueTree {s t : State} (h : buildBody s = .ok () t) (h0 : s.nsym ≠ 0) (hn : s.nsym ≤ 256) :
    t.tree? = s.twoQueueTree := by
  rw [buildBody, if_neg h0, if_neg (show ¬ Config.nsymMax < s.nsym from Nat.not_lt.2 hn)] at h
  obtain ⟨root, u, hm, h⟩ := Res.bind_eq_ok.1 h
  rcases deriveCodes_cases { u with root := root } with ⟨tree, htree, hd⟩ | ⟨_, hd⟩ <;> rw [hd] at h
  · cases h
    obtain ⟨_, hholds⟩ := State.holdsTree_of_treeAt? htree
    have hlength := (stableSort_perm s.withLeaves.nodeCount (List.range s.nsym)).length_eq
    rw [List.length_range] at hlength
    have hstart := leafTrees_hold hn
    rw [← queuesMerged_nil_right (s.leafTrees.mergeSort _)] at hstart
    obtain ⟨tree', _, hholds', hqueues⟩ := mergeAll_twoQueues hm hstart ⟨0, fun _ _ => Nat.zero_le _, nofun⟩
      (stableSort_pairwise _ _) hlength.le (show s.nsym + _ ≤ 512 by omega)
    have hsame : tree' = tree :=
      (hholds'.congr (u := { u with root := root }) le_rfl fun _ _ => rfl).unique hholds
    rw [State.twoQueueTree, hqueues, hsame, ← htree]
    exact tree?_congr rfl rfl rfl
  · cases h

end Sys2Proof.Machine

/-!
PROOFS about the container that SERT, ENCT and FIN write (R160, R166, R168), and COMP of a text (R203).
-/

namespace Sys2Proof.Machine

/-! ## SERT and ENCT -/

/-- A LEAF record has nine bits, an INTERNAL record one (R110). -/
theorem Tree.length_ser (t : Tree) : t.ser.length = 5 * t.size + 4 := by
  induction t with
  | leaf => rfl
  | internal c l r ihl ihr =>
    have hser : (Tree.internal c l r).ser = true :: (l.ser ++ r.ser) := rfl
    rw [hser, List.length_cons, List.length_append, ihl, ihr, Tree.size]
    omega

theorem State.outBits_streamOpened (s : State) : s.streamOpened.outBits = bits8 0 := by
  rw [State.outBits, waitingBits_of_accn_zero rfl, List.append_nil]
  show [(Memory.read? (Memory.write s.obuf 0 0x00) 0).getD 0].flatMap bits8 = _
  rw [Memory.read?_write_same]
  rfl

/-- SERT of a tree that fits appends its records to the header placeholder (R160, R161). -/
theorem sertBody_appends {s : State} {tree : Tree} (htree : s.tree? = some tree)
    (hroom : 1 + tree.ser.length / 8 ≤ s.params.obufCap) :
    ∃ t, sertBody s = .ok () t ∧ s.streamOpened.Appends t tree.ser := by
  have hcount : 1 + (0 + tree.ser.length) / 8 ≤ s.params.obufCap := by rwa [Nat.zero_add]
  obtain ⟨t, ht, houtBits, holen, haccn, hlow, hobuf⟩ :=
    putBits_appends (s := s.streamOpened) (accLowZero_of_zero rfl) hcount
  refine ⟨t.setPhase .stream, ?_, houtBits, holen, haccn, hlow, hobuf⟩
  rw [sertBody.eq_def, htree]
  show (putBits tree.ser s.streamOpened).bind _ = _
  rw [ht]
  rfl

theorem codeOf_congr {s u : State} (h : u.code = s.code) (sym : Byte) : u.codeOf sym = s.codeOf sym := by
  rw [State.codeOf, State.codeOf]
  simp only [h]

theorem codewords_congr {s u : State} (h : u.code = s.code) (text : List Byte) : u.codewords text = s.codewords text :=
  congrArg text.flatMap (funext fun sym => congrArg CodeEntry.bits (codeOf_congr h sym))

/-- ENCT of a text with codewords that fit appends them in order (R166). -/
theorem encodeText_appends {text : List Byte} {s : State} (hlow : s.AccLowZero) (hvalid : s.encodes text)
    (hroom : s.olen + (s.accn.toNat + (s.codewords text).length) / 8 ≤ s.params.obufCap) :
    ∃ t, encodeText text s = .ok () t ∧ s.Appends t (s.codewords text) := by
  induction text generalizing s with
  | nil => exact ⟨s, rfl, .nil hlow⟩
  | cons sym text ih =>
    obtain ⟨hsym, htext⟩ := List.forall_mem_cons.1 hvalid
    have hwords : s.codewords (sym :: text) = (s.codeOf sym).bits ++ s.codewords text := List.flatMap_cons
    rw [hwords, List.length_append] at hroom
    obtain ⟨u, hu, happ⟩ := putBits_appends (bits := (s.codeOf sym).bits) hlow (by omega)
    have hframe := putBits_frame _ (.of_ok hu)
    have hcode : u.code = s.code := by rw [hframe]
    have hcap : u.params.obufCap = s.params.obufCap := by rw [hframe]
    obtain ⟨t, ht, happ'⟩ := ih happ.low (fun x hx => by rw [codeOf_congr hcode]; exact htext x hx)
      (by rw [codewords_congr hcode, happ.olen, happ.accn, hcap]; omega)
    rw [codewords_congr hcode] at happ'
    exact ⟨t, by rw [encodeText, encodeSymbol, if_pos hsym, hu, Res.bind_ok, ht], hwords ▸ happ.trans happ'⟩

/-! ## FIN -/

/-- Pseudocode whose command records no fault has reached its last line. -/
theorem Res.eq_ok_of_outcome {r : Res Unit} {t : State} (h : r.outcome = .next t) (herr : t.status.err = false) :
    r = .ok () t := by
  rcases Res.outcome_eq_next h with ⟨_, hr⟩ | ⟨k, n, u, _, rfl⟩
  · exact hr
  · cases herr

/-- FIN of a stream to which the bits have been appended since it was opened (R168, R79). -/
theorem finBody_closes {s v : State} {bits : Bits} (happ : s.streamOpened.Appends v bits) (herr : v.status.err = false)
    (hphase : v.status.phase = .stream) (hroom : 1 + (bits.length + 7) / 8 ≤ v.params.obufCap) :
    ∃ t, finBody v = .ok () t ∧
      t.outBytes.flatMap bits8 = bits8 (t.pad.setWidth 8) ++ bits ++ List.replicate t.pad.toNat false ∧
      (∀ a, t.olen ≤ a → Memory.read? t.obuf a = Memory.read? s.obuf a) ∧
      t = { v with
        obuf := t.obuf, olen := t.olen, acc := 0, accn := 0, pad := t.pad, status := { v.status with phase := .closed } } := by
  have holen : v.olen = 1 + (0 + bits.length) / 8 := happ.olen
  have haccn : v.accn.toNat = (0 + bits.length) % 8 := happ.accn
  have hwaiting : v.accn = 0 ∨ v.olen < v.params.obufCap := by
    by_cases h0 : v.accn = 0
    · exact .inl h0
    · have : v.accn.toNat ≠ 0 := by bv_omega
      exact .inr (by omega)
  obtain ⟨t, hexec, -, houtBits, htolen, hacc0, haccn0, hobuf, hframe⟩ :=
    (finPadsAndBackfills v herr hphase happ.low (by omega)).1 hwaiting
  rw [exec_fin herr hphase] at hexec
  refine ⟨t, Res.eq_ok_of_outcome hexec (by rw [hframe]; exact herr), ?_, fun a ha => ?_, ?_⟩
  · rw [State.outBits, waitingBits_of_accn_zero haccn0, List.append_nil] at houtBits
    rw [houtBits, happ.outBits, State.outBits_streamOpened, List.drop_left' (length_bits8 0)]
  · have hopened : Memory.read? s.streamOpened.obuf a = Memory.read? s.obuf a :=
      Memory.read?_write_other _ _ _ _ (by omega)
    have hlast : a ≠ v.olen ∨ v.accn = 0 := by
      by_cases h0 : v.accn = 0
      · exact .inr h0
      · rw [if_neg h0] at htolen
        exact .inl (by omega)
    rw [hobuf a (by omega) hlast, happ.obuf a (.inr (by omega)), hopened]
  · rw [hacc0, haccn0] at hframe
    exact hframe

/-! ## The container (R169) -/

/-- What SERT, ENCT and FIN have written, run one after another (R169): the header, the tree, the codewords and the padding. -/
structure State.Compresses (s t : State) (tree : Tree) (text : List Byte) : Prop where
  bits : t.outBytes.flatMap bits8 =
    bits8 (t.pad.setWidth 8) ++ tree.ser ++ s.codewords text ++ List.replicate t.pad.toNat false
  obuf : ∀ a, t.olen ≤ a → Memory.read? t.obuf a = Memory.read? s.obuf a
  frame : t = { s with
    obuf := t.obuf, olen := t.olen, acc := 0, accn := 0, pad := t.pad, status := { s.status with phase := .closed } }

/-- SERT, ENCT of the input text and FIN, one after another, write the text's container under the tree, where it fits. -/
theorem encode_compresses {s : State} {tree : Tree} (htree : s.tree? = some tree) (hvalid : s.encodes s.inputText)
    (herr : s.status.err = false)
    (hroom : 1 + (tree.ser.length + (s.codewords s.inputText).length + 7) / 8 ≤ s.params.obufCap) :
    ∃ t, ((sertBody s).bind fun _ u => (enctBody u).bind fun _ v => finBody v) = .ok () t ∧
      s.Compresses t tree s.inputText := by
  obtain ⟨u, hu, happ⟩ := sertBody_appends htree (by omega)
  have hframe := sertBody_frame (.of_ok hu)
  have hcode : u.code = s.code := by rw [hframe]
  have hcap : u.params.obufCap = s.params.obufCap := by rw [hframe]
  have hinput : u.inputText = s.inputText := by rw [hframe]; rfl
  have hustatus := (sertBody_endsStatus s).ok hu
  have holen : u.olen = 1 + (0 + tree.ser.length) / 8 := happ.olen
  have haccn : u.accn.toNat = (0 + tree.ser.length) % 8 := happ.accn
  obtain ⟨v, hv, happ'⟩ := encodeText_appends (text := s.inputText) happ.low
    (fun x hx => by rw [codeOf_congr hcode]; exact hvalid x hx) (by rw [codewords_congr hcode, hcap]; omega)
  rw [codewords_congr hcode] at happ'
  have hframe' := encodeText_frame _ (.of_ok hv)
  have hvstatus : v.status = { s.status with phase := .stream } := by rw [hframe', hustatus]
  obtain ⟨t, ht, hbits, hobuf, htframe⟩ := finBody_closes (happ.trans happ') (by rw [hvstatus]; exact herr)
    (by rw [hvstatus]) (by rw [hframe', hcap, List.length_append]; exact hroom)
  refine ⟨t, by rw [hu, Res.bind_ok, enctBody, hinput, hv, Res.bind_ok, ht], ?_, hobuf, ?_⟩
  · rw [hbits, ← List.append_assoc]
  · rw [hvstatus] at htframe
    rw [htframe, hframe', hframe]

/-! ## COMP (R203) -/

/-- Where the leaves of the tree are the counted symbols, these are the symbols with a codeword (R45). -/
theorem codeOf_valid_iff_counted {s u : State} {tree : Tree} (hs : s.FreqOk) (hcode : u.code = tree.codeTable)
    (hleaves : tree.leaves.Perm (s.orderList.map fun sym => (s.freqOf sym, sym))) (sym : Byte) :
    (u.codeOf sym).valid = true ↔ 1 ≤ s.freqOf sym := by
  have hsymbols : (tree.leaves.map Prod.snd).Perm s.orderList := by
    refine (hleaves.map Prod.snd).trans (.of_eq ?_)
    rw [List.map_map]
    exact List.map_id _
  rw [codeOf_valid_iff hcode, hsymbols.mem_iff, hs.mem_iff]

theorem State.HasTree.length_codewords_le {s : State} {t : Tree} (h : s.HasTree t) (text : List Byte) :
    (s.codewords text).length ≤ 255 * text.length := by
  induction text with
  | nil => exact Nat.zero_le _
  | cons sym text ih =>
    obtain ⟨hlen, hle⟩ := h.codeOf_len sym
    have hwords : s.codewords (sym :: text) = (s.codeOf sym).bits ++ s.codewords text := List.flatMap_cons
    rw [hwords, List.length_append, List.length_cons]
    omega

theorem freqOf_of_table_eq {s t : State} (h : t.table = s.table) (sym : Byte) : t.freqOf sym = s.freqOf sym := by
  obtain ⟨-, hfreq, -⟩ := by simpa [State.table] using h
  rw [State.freqOf, State.freqOf, hfreq]

theorem orderList_of_table_eq {s t : State} (h : t.table = s.table) : t.orderList = s.orderList := by
  obtain ⟨-, -, horder, hnsym, -⟩ := by simpa [State.table] using h
  rw [State.orderList, State.orderList, hnsym]
  exact List.map_congr_left fun i _ => by rw [State.orderAt, State.orderAt, horder]

theorem twoQueueTree_of_table_eq {s t : State} (h : t.table = s.table) : t.twoQueueTree = s.twoQueueTree := by
  obtain ⟨-, -, -, hnsym, -⟩ := by simpa [State.table] using h
  have hleaves : t.leafTrees = s.leafTrees := by
    rw [State.leafTrees, State.leafTrees, orderList_of_table_eq h]
    exact List.map_congr_left fun sym _ => by rw [freqOf_of_table_eq h]
  rw [State.twoQueueTree, State.twoQueueTree, hnsym, hleaves]

/-- What counts a text is the table alone. -/
theorem State.CountsText.of_table_eq {s u t : State} {text : List Byte} (h : s.CountsText u text)
    (ht : t.table = u.table) : s.CountsText t text where
  freq x := (freqOf_of_table_eq ht x).trans (h.freq x)
  order := (orderList_of_table_eq ht).trans h.order
  total := by
    obtain ⟨-, -, -, -, htotal⟩ := by simpa [State.table] using ht
    exact htotal.trans h.total

/-- A table with a count has a symbol (R39). -/
theorem State.FreqOk.nsym_ne_zero {s : State} (hs : s.FreqOk) (h : 1 ≤ s.nsym + s.total) : s.nsym ≠ 0 := by
  intro h0
  have htotal := hs.total_eq_orderList_sum
  rw [State.orderList, h0] at htotal
  have : s.total = 0 := htotal
  omega

/-- FADDT and BUILD, one after another, where there is something to count (R132, R140, R145 (b)). -/
theorem count_and_build {s : State} (hs : s.FreqOk) (hsome : 1 ≤ s.nsym + s.ilen)
    (hfits : s.total + s.ilen ≤ s.params.countMax) :
    ∃ u v tree, faddtBody s = .ok () u ∧ s.CountsText u s.inputText ∧ buildBody u = .ok () v ∧ v.HasTree tree ∧
      u.twoQueueTree = some tree ∧ v.encodes s.inputText ∧
      v.status = { s.status with rootv := true, codev := true, phase := .built } := by
  obtain ⟨u, hu, hcounts⟩ := addText_countsText (text := s.inputText) hs (by rwa [s.length_inputText])
  have hgrows := addText_tableGrows (.of_ok hu)
  have hfreqOk := hgrows.freqOk hs
  have htotal := hcounts.total
  rw [s.length_inputText] at htotal
  have hnsym := hfreqOk.nsym_ne_zero (by have := hgrows.nsym_le; omega)
  obtain ⟨v, tree, hv, htree, hleaves, -, hstatus, -⟩ := buildBody_tree hnsym hfreqOk.nsym_le
  refine ⟨u, v, tree, hu, hcounts, hv, htree, ?_, fun sym hsym => ?_, ?_⟩
  · rw [← buildBody_twoQueueTree hv hnsym hfreqOk.nsym_le, htree.tree?]
  · rw [codeOf_valid_iff_counted hfreqOk htree.code_eq hleaves, hcounts.freq]
    have := List.count_pos_iff.2 hsym
    omega
  · rw [hstatus, (addText_endsStatus _ s).ok hu]

/-- Settles O53: the text is counted, the table's tree is built, and SERT, ENCT and FIN write the container. -/
theorem compCompressesText : Obligations.CompCompressesText := by
  unfold Obligations.CompCompressesText
  intro s hs herr hphase hempty hsome hfits hroom
  obtain ⟨u, v, tree, hu, hcounts, hv, htree, hqueues, hvalid, hvstatus⟩ := count_and_build hs hsome hfits
  have huframe := addText_frame _ (.of_ok hu)
  have hvframe := buildBody_frame (.of_ok hv)
  have hcap : v.params.obufCap = s.params.obufCap := by rw [hvframe, huframe]
  have hinput : v.inputText = s.inputText := by rw [hvframe, huframe]; rfl
  have hser := tree.length_ser
  have hsize := htree.size_eq
  have hnnode := htree.nnode_le
  have hwords := htree.length_codewords_le v.inputText
  rw [v.length_inputText, show v.ilen = s.ilen by rw [hvframe, huframe]] at hwords
  obtain ⟨t, ht, hbits, hobuf, hframe⟩ := encode_compresses htree.tree? (hinput ▸ hvalid) (by rw [hvstatus]; exact herr)
    (by omega)
  have hcode : t.code = v.code := by rw [hframe]
  have hstatus : t.status = { s.status with rootv := true, codev := true, phase := .closed } := by rw [hframe, hvstatus]
  have htable : t.table = u.table := by rw [hframe, hvframe]; rfl
  have hrun : compBody s = .ok () t := by
    rw [compBody, hu, Res.bind_ok, hv, Res.bind_ok, if_neg (by rw [hvstatus, hempty]; decide), ht]
  have hphase' : t.status.phase = .closed := by rw [hstatus]
  obtain ⟨hfreq, horder, htotal⟩ := hcounts.of_table_eq htable
  refine ⟨t, tree, ?_, ⟨by rw [hstatus]; exact herr, .inl hphase'⟩, hphase', hfreq, horder,
    by rw [htotal, s.length_inputText], (twoQueueTree_of_table_eq htable).trans hqueues,
    ?_, hcode.trans htree.code_eq, ?_, fun a ha => ?_, ?_⟩
  · rw [exec_runs (i := .comp) rfl nofun herr (by simp [Status.permits, hphase]), commandBody, hrun]
    rfl
  · exact (tree?_congr (by rw [hframe]) (by rw [hframe]) (by rw [hframe])).trans htree.tree?
  · rw [hbits, codewords_congr hcode, hinput]
  · rw [hobuf a ha, hvframe, huframe]
  · rw [← hstatus, hframe, hvframe, huframe]

end Sys2Proof.Machine

/-!
PROOFS of the build obligations: BUILD's node layout (R140, R141, R144) and its tree (R145), the commands that find nothing to do
(R149, R182, R203, R205), and CWLK (R148).
-/

namespace Sys2Proof.Machine

/-! ## Nothing to do (R149, R182) -/

/-- Settles O24: each command's pseudocode, its parts' included, is the empty short-circuit. -/
theorem emptyShortCircuits : Obligations.EmptyShortCircuits := by
  unfold Obligations.EmptyShortCircuits
  intro s herr hphase
  have hbuild (h : s.nsym = 0) : buildBody s = .ok () s.emptyClosed := if_pos h
  have hldhdr (h : s.ilen = 0) : ldhdrBody s = .ok () s.emptyClosed := if_pos h
  have hfaddt (h : s.ilen = 0) : faddtBody s = .ok () s := by
    rw [faddtBody, List.length_eq_zero_iff.1 (s.length_inputText.trans h)]
    rfl
  have hempty : s.emptyClosed.status.empty = true := rfl
  refine ⟨fun hn => ?_, fun hi => ?_, fun hn hi => ?_, fun hi => ?_⟩
  · exact exec_of_ok (i := .build) rfl nofun herr (by simp [Status.permits, hphase]) (hbuild hn)
  · exact exec_of_ok (i := .ldhdr) rfl nofun herr (by simp [Status.permits, hphase]) (hldhdr hi)
  · have hcomp : compBody s = .ok () s.emptyClosed := by
      rw [compBody, hfaddt hi, Res.bind_ok, hbuild hn, Res.bind_ok, if_pos hempty]
    exact exec_of_ok (i := .comp) rfl nofun herr (by simp [Status.permits, hphase]) hcomp
  · have hdecomp : decompBody s = .ok () s.emptyClosed := by
      rw [decompBody, hldhdr hi, Res.bind_ok, if_pos hempty]
    exact exec_of_ok (i := .decomp) rfl nofun herr (by simp [Status.permits, hphase]) hdecomp

/-! ## CWLK (R148) -/

/-- Settles O29: CODEV decides whether CWLK is in phase, and VALID whether the symbol has a codeword. -/
theorem cwlkReturnsCodeword : Obligations.CwlkReturnsCodeword := by
  unfold Obligations.CwlkReturnsCodeword
  intro s sym herr
  have hruns (hcodev : s.status.codev = true) : exec (.cwlk sym) s = (cwlkBody sym s).outcome :=
    exec_runs (i := .cwlk sym) rfl nofun herr hcodev
  refine ⟨rfl, fun hcodev hvalid => ?_, fun hcodev hvalid => ?_, fun hcodev => ?_⟩
  · rw [hruns hcodev, cwlkBody, if_pos hvalid]
    rfl
  · rw [hruns hcodev, cwlkBody, if_neg (by simp [hvalid])]
    rfl
  · rw [exec_command (i := .cwlk sym) rfl nofun, runCommand, if_neg (by simp [herr]),
      if_neg (by simp [Status.permits, hcodev])]
    rfl

/-! ## The layout of NODE after BUILD (R140, R141, R144) -/

/-- A merge step writes no entry below NNODE. -/
theorem State.nodeAt_merged {s : State} {i : Nat} (hi : i < s.nnode) (a b : Nat) : (s.merged a b).nodeAt i = s.nodeAt i := by
  rw [State.nodeAt, State.merged_nodes, Vector.getElem?_setIfInBounds_ne hi.ne', State.nodeAt]

/-- From `s` to `t` the merge loop has brought `n` nodes down to one: one new entry for each step, behind the entries of `s`, and
`root` the last entry. -/
structure State.MergedBehind (s t : State) (n root : Nat) : Prop where
  root_last : root + 1 = t.nnode
  nnode : t.nnode + 1 = s.nnode + n
  kept : ∀ i, i < s.nnode → t.nodeAt i = s.nodeAt i

/-- The merge loop appends its nodes behind the entries it finds; the premise is about a list that needs no merge. -/
theorem mergeAll_mergedBehind {fuel : Nat} {roots : List Nat} {s t : State} {root : Nat}
    (h : mergeAll fuel roots s = .ok root t) (hlast : ∀ r, roots = [r] → r + 1 = s.nnode) :
    s.MergedBehind t roots.length root := by
  induction fuel generalizing roots s with
  | zero =>
    match roots with
    | [] | _ :: _ :: _ => cases h
    | [r] =>
      cases h
      exact ⟨hlast _ rfl, rfl, fun _ _ => rfl⟩
  | succ fuel ih =>
    match roots with
    | [] => cases h
    | [r] =>
      cases h
      exact ⟨hlast _ rfl, rfl, fun _ _ => rfl⟩
    | a :: b :: rest =>
      have hperm := stableSort_perm (s.merged a b).nodeCount (rest ++ [s.nnode])
      have hlength := hperm.length_eq
      rw [List.length_append, List.length_singleton] at hlength
      have hnew (r : Nat) (hr : stableSort (s.merged a b).nodeCount (rest ++ [s.nnode]) = [r]) :
          r + 1 = (s.merged a b).nnode := by
        have hmem := hperm.mem_iff.2 (List.mem_append_right rest (List.mem_singleton_self s.nnode))
        rw [hr, List.mem_singleton] at hmem
        rw [State.merged_nnode, hmem]
      rw [mergeAll] at h
      obtain ⟨hroot, hnnode, hkept⟩ := ih h hnew
      rw [State.merged_nnode] at hnnode hkept
      refine ⟨hroot, ?_, fun i hi => (hkept i (Nat.lt_succ_of_lt hi)).trans (State.nodeAt_merged hi a b)⟩
      rw [List.length_cons, List.length_cons]
      omega

/-- BUILD of a table with symbols is the merge loop on the sorted leaves, and then the code table and STATUS. -/
theorem buildBody_eq_ok {s t : State} (h : buildBody s = .ok () t) (h0 : s.nsym ≠ 0) :
    ∃ (root : Nat) (u : State) (tree : Tree),
      mergeAll s.nsym (stableSort s.withLeaves.nodeCount (List.range s.nsym)) s.withLeaves = .ok root u ∧
        t = { u with root := root, code := tree.codeTable }.treeReady .built := by
  rw [buildBody, if_neg h0] at h
  split at h
  · cases h
  · obtain ⟨root, u, hm, h⟩ := Res.bind_eq_ok.1 h
    rcases deriveCodes_cases { u with root := root } with ⟨tree, _, hd⟩ | ⟨_, hd⟩ <;> rw [hd] at h
    · cases h
      exact ⟨root, u, tree, hm, rfl⟩
    · cases h

/-- The node store that BUILD leaves: the leaves in insertion order, the merged nodes behind them, the root last. -/
theorem buildBody_layout {s t : State} (h : buildBody s = .ok () t) (h0 : s.nsym ≠ 0) (hn : s.nsym ≤ 256) :
    t.root + 1 = t.nnode ∧ t.nnode + 1 = s.nsym + s.nsym ∧
      ∀ i, i < s.nsym → t.nodeAt i = Node.mkLeaf (s.orderAt i) (s.freqOf (s.orderAt i)) := by
  obtain ⟨root, u, tree, hm, rfl⟩ := buildBody_eq_ok h h0
  have hperm := stableSort_perm s.withLeaves.nodeCount (List.range s.nsym)
  have hlength := hperm.length_eq
  rw [List.length_range] at hlength
  have hone (r : Nat) (hr : stableSort s.withLeaves.nodeCount (List.range s.nsym) = [r]) : r + 1 = s.withLeaves.nnode := by
    have hrange : List.range s.nsym = [r] := List.perm_singleton.1 (hr ▸ hperm).symm
    have hnsym : s.nsym = 1 := by rw [← List.length_range (n := s.nsym), hrange]; rfl
    rw [hnsym] at hrange
    cases hrange
    exact hnsym.symm
  obtain ⟨hroot, hnnode, hkept⟩ := mergeAll_mergedBehind hm hone
  rw [hlength] at hnnode
  exact ⟨hroot, hnnode, fun i hi => (hkept i hi).trans (withLeaves_nodeAt hn hi)⟩

/-- Settles O25: the loop's nodes stand behind the leaves, and BUILD's frame is that of its pseudocode. -/
theorem buildLaysOutNodes : Obligations.BuildLaysOutNodes := by
  unfold Obligations.BuildLaysOutNodes
  intro s hs herr hphase hpos
  have h0 := Nat.one_le_iff_ne_zero.1 hpos
  obtain ⟨t, _, hb, -, -, -, hstatus, holen⟩ := buildBody_tree h0 hs.nsym_le
  obtain ⟨hroot, hnnode, hleaves⟩ := buildBody_layout hb h0 hs.nsym_le
  refine ⟨t, exec_of_ok rfl nofun herr (by simp [Status.permits, hphase]) hb, by omega, by omega, hleaves, ?_⟩
  rw [← hstatus, ← holen]
  exact buildBody_frame (.of_ok hb)

/-- Settles O26: BUILD ends with a tree, and that tree is the two queues' (R145 (b)). -/
theorem buildAgreesWithTwoQueues : Obligations.BuildAgreesWithTwoQueues := by
  unfold Obligations.BuildAgreesWithTwoQueues
  intro s hs herr hphase hpos
  have h0 := Nat.one_le_iff_ne_zero.1 hpos
  obtain ⟨t, tree, hb, htree, -⟩ := buildBody_tree h0 hs.nsym_le
  refine ⟨t, tree, exec_of_ok rfl nofun herr (by simp [Status.permits, hphase]) hb, htree.tree?, ?_⟩
  rw [← buildBody_twoQueueTree hb h0 hs.nsym_le, htree.tree?]

end Sys2Proof.Machine

/-!
PROOFS of the encoder obligations: SERT (R160), ENC and ENCT of a symbol with and without a codeword (R164, R166), the content of a
container however its symbols were encoded (R169, R170), and the container of a text of one symbol (R165, R192 (c)).
-/

namespace Sys2Proof.Machine

/-! ## SERT (R160) -/

/-- Settles O31: the tree's records are appended to the header placeholder, and all bytes written stand below the new OLEN. -/
theorem sertWritesTree : Obligations.SertWritesTree := by
  unfold Obligations.SertWritesTree
  intro s tree herr hphase htree hroom
  obtain ⟨t, ht, happ⟩ := sertBody_appends htree hroom
  have holen : t.olen = 1 + tree.ser.length / 8 := happ.olen.trans (by simp)
  refine ⟨t, exec_of_ok rfl nofun herr (by simp [Status.permits, hphase]) ht, ?_, holen, happ.accn.trans (by simp), happ.low,
    fun a ha => ?_, ?_⟩
  · rw [happ.outBits, State.outBits_streamOpened]
  · exact (happ.obuf a (.inr ha)).trans (Memory.read?_write_other _ _ _ _ (by omega))
  · rw [← (sertBody_endsStatus s).ok ht]
    exact sertBody_frame (.of_ok ht)

/-! ## ENC and ENCT, with and without a codeword (R164, R166) -/

theorem encodeSymbol_unknown {s : State} {sym : Byte} (h : (s.codeOf sym).valid = false) :
    encodeSymbol sym s = .raised .unknownSymbol sym.toNat s := if_neg (by simp [h])

/-- Settles O33: the codeword's validity is tested before its bits are put. -/
theorem encUnknownSymbolFaults : Obligations.EncUnknownSymbolFaults := by
  unfold Obligations.EncUnknownSymbolFaults
  intro s sym herr hphase hunknown
  rw [exec_runs (i := .enc sym) rfl nofun herr (by simp [Status.permits, hphase]), commandBody, encodeSymbol_unknown hunknown]
  rfl

theorem encodeText_append (before after : List Byte) (s : State) :
    encodeText (before ++ after) s = (encodeText before s).bind fun _ u => encodeText after u := by
  induction before generalizing s with
  | nil => rfl
  | cons sym before ih => simp only [List.cons_append, encodeText, Res.bind_assoc, ih]

/-- ENCT in phase STREAM encodes the input text. -/
theorem exec_enct {s : State} (herr : s.status.err = false) (hphase : s.status.phase = .stream) :
    exec .enct s = (encodeText s.inputText s).outcome :=
  exec_runs (i := .enct) rfl nofun herr (by simp [Status.permits, hphase])

/-- Settles O35, by induction on the text (`encodeText_appends`). -/
theorem enctAppendsCodewords : Obligations.EnctAppendsCodewords := by
  unfold Obligations.EnctAppendsCodewords
  intro s herr hphase hlow hvalid hroom
  obtain ⟨t, ht, houtBits, holen, haccn, hlow', hobuf⟩ := encodeText_appends hlow hvalid hroom
  refine ⟨t, ?_, houtBits, holen, haccn, hlow', hobuf, encodeText_frame _ (.of_ok ht)⟩
  rw [exec_enct herr hphase, ht]
  rfl

/-- Settles O36: the bytes before are encoded as a text of their own, and the next one finds no codeword. -/
theorem enctUnknownSymbolKeepsWritten : Obligations.EnctUnknownSymbolKeepsWritten := by
  unfold Obligations.EnctUnknownSymbolKeepsWritten
  intro s before rest sym herr hphase hlow hinput hvalid hunknown hroom
  obtain ⟨u, hu, happ⟩ := encodeText_appends hlow hvalid hroom
  have hframe := encodeText_frame _ (.of_ok hu)
  have hraise : encodeSymbol sym u = .raised .unknownSymbol sym.toNat u :=
    encodeSymbol_unknown (by rwa [codeOf_congr (s := s) (by rw [hframe])])
  refine ⟨u.raise .unknownSymbol sym.toNat, ?_, happ.outBits, rfl, rfl, happ.obuf, ?_⟩
  · rw [exec_enct herr hphase, hinput, encodeText_append, hu, Res.bind_ok, encodeText, hraise]
    rfl
  · rw [hframe]
    rfl

/-! ## A text loaded by the host (R118) -/

theorem memRead_withInput (s : State) {text : List Byte} {a : Nat} (ha : a < text.length) :
    (s.withInput text).memRead a = text[a] := by
  rw [State.memRead, show (s.withInput text).ibuf = Memory.writeList s.ibuf 0 text from rfl, Memory.read?_writeList,
    if_pos ⟨Nat.zero_le a, by omega⟩, Nat.sub_zero, List.getElem?_eq_getElem ha, Option.getD_some]

@[simp] theorem inputText_withInput (s : State) (text : List Byte) : (s.withInput text).inputText = text := by
  refine List.ext_getElem (State.length_inputText _) fun a _ ha => ?_
  simp only [State.inputText, List.getElem_map, List.getElem_range, memRead_withInput s ha]

/-! ## ENC and ENCT one after another (R170) -/

theorem codewords_append (s : State) (front back : List Byte) :
    s.codewords (front ++ back) = s.codewords front ++ s.codewords back := List.flatMap_append

/-- From `s` to `t` the codewords of a text have been appended; the code table, the parameters and STATUS are as they were. -/
structure State.AppendsCodewords (s t : State) (text : List Byte) : Prop where
  bits : s.Appends t (s.codewords text)
  code : t.code = s.code
  params : t.params = s.params
  status : t.status = s.status

theorem State.AppendsCodewords.nil {s : State} (h : s.AccLowZero) : s.AppendsCodewords s [] := ⟨.nil h, rfl, rfl, rfl⟩

theorem State.AppendsCodewords.trans {s t u : State} {front back : List Byte} (h : s.AppendsCodewords t front)
    (h' : t.AppendsCodewords u back) : s.AppendsCodewords u (front ++ back) where
  bits := by
    rw [codewords_append, ← codewords_congr h.code back]
    exact h.bits.trans h'.bits
  code := h'.code.trans h.code
  params := h'.params.trans h.params
  status := h'.status.trans h.status

/-- The pseudocode that ENC of one symbol and ENCT of a loaded text share appends the codewords, where they fit. -/
theorem encodeText_appendsCodewords {text : List Byte} {s : State} (hlow : s.AccLowZero) (hvalid : s.encodes text)
    (hroom : s.olen + (s.accn.toNat + (s.codewords text).length) / 8 ≤ s.params.obufCap) :
    ∃ t, encodeText text s = .ok () t ∧ s.AppendsCodewords t text := by
  obtain ⟨t, ht, happ⟩ := encodeText_appends hlow hvalid hroom
  have hframe := encodeText_frame _ (.of_ok ht)
  exact ⟨t, ht, happ, by rw [hframe], by rw [hframe], by rw [hframe]⟩

/-- One move, ENC or ENCT, appends the codewords of its symbols (R170). -/
theorem EncodeMove.run_appendsCodewords {m : EncodeMove} {s : State} (herr : s.status.err = false)
    (hphase : s.status.phase = .stream) (hlow : s.AccLowZero) (hvalid : s.encodes m.text)
    (hroom : s.olen + (s.accn.toNat + (s.codewords m.text).length) / 8 ≤ s.params.obufCap) :
    ∃ t, m.run s = .next t ∧ s.AppendsCodewords t m.text := by
  cases m with
  | enc sym =>
    obtain ⟨t, ht, happ⟩ := encodeText_appendsCodewords hlow hvalid hroom
    rw [EncodeMove.text, encodeText_singleton] at ht
    exact ⟨t, exec_of_ok (i := .enc sym) rfl nofun herr (by simp [Status.permits, hphase]) ht, happ⟩
  | enct text =>
    obtain ⟨t, ht, happ, hcode, hparams, hstatus⟩ := encodeText_appendsCodewords (s := s.withInput text) hlow hvalid hroom
    refine ⟨t, ?_, ⟨happ.outBits, happ.olen, happ.accn, happ.low, happ.obuf⟩, hcode, hparams, hstatus⟩
    rw [EncodeMove.run, exec_enct (s := s.withInput text) herr hphase, inputText_withInput]
    exact congrArg Res.outcome ht

/-- Any number of moves append their codewords in order, however the text is split over them. -/
theorem encodeRun_appendsCodewords {moves : List EncodeMove} {s : State} (herr : s.status.err = false)
    (hphase : s.status.phase = .stream) (hlow : s.AccLowZero) (hvalid : s.encodes (moves.flatMap EncodeMove.text))
    (hroom : s.olen + (s.accn.toNat + (s.codewords (moves.flatMap EncodeMove.text)).length) / 8 ≤ s.params.obufCap) :
    ∃ t, encodeRun moves s = .next t ∧ s.AppendsCodewords t (moves.flatMap EncodeMove.text) := by
  induction moves generalizing s with
  | nil => exact ⟨s, rfl, .nil hlow⟩
  | cons m moves ih =>
    rw [List.flatMap_cons] at hvalid hroom ⊢
    obtain ⟨hm, hmoves⟩ := List.forall_mem_append.1 hvalid
    rw [codewords_append, List.length_append] at hroom
    obtain ⟨u, hu, happ⟩ := EncodeMove.run_appendsCodewords (m := m) herr hphase hlow hm (by omega)
    have holen := happ.bits.olen
    have haccn := happ.bits.accn
    obtain ⟨t, ht, happ'⟩ := ih (by rw [happ.status, herr]) (by rw [happ.status, hphase]) happ.bits.low
      (fun sym hsym => by rw [codeOf_congr happ.code]; exact hmoves sym hsym)
      (by rw [codewords_congr happ.code, happ.params]; omega)
    exact ⟨t, by rw [encodeRun, hu]; exact ht, happ.trans happ'⟩

/-! ## The container (R169) -/

theorem length_flatMap_bits8 (bytes : List Byte) : (bytes.flatMap bits8).length = 8 * bytes.length := by
  induction bytes with
  | nil => rfl
  | cons v bytes ih => rw [List.flatMap_cons, List.length_append, length_bits8, ih, List.length_cons]; omega

@[simp] theorem State.length_outBytes (s : State) : s.outBytes.length = s.olen := by
  rw [State.outBytes, List.length_map, List.length_range]

/-- The length of a container: its output is whole bytes (R170). -/
theorem State.eight_mul_olen {s : State} {v : Byte} {tree code padding : Bits}
    (h : s.outBytes.flatMap bits8 = bits8 v ++ tree ++ code ++ padding) :
    8 + tree.length + code.length + padding.length = 8 * s.olen := by
  rw [← s.length_outBytes, ← length_flatMap_bits8, h]
  simp only [List.length_append, length_bits8]

/-- Settles O38: each command appends its bits to the stream that SERT opens, and FIN pads the stream to whole bytes. -/
theorem containerContent : Obligations.ContainerContent := by
  unfold Obligations.ContainerContent
  intro s tree moves herr hphase htree hvalid hroom
  obtain ⟨u, hu, happ⟩ := sertBody_appends htree (by omega)
  have hframe := sertBody_frame (.of_ok hu)
  have hcode : u.code = s.code := by rw [hframe]
  have hcap : u.params.obufCap = s.params.obufCap := by rw [hframe]
  have hstatus := (sertBody_endsStatus s).ok hu
  have holen : u.olen = 1 + (0 + tree.ser.length) / 8 := happ.olen
  have haccn : u.accn.toNat = (0 + tree.ser.length) % 8 := happ.accn
  obtain ⟨v, hv, hcodes⟩ := encodeRun_appendsCodewords (moves := moves) (by rw [hstatus]; exact herr) (by rw [hstatus]) happ.low
    (fun sym hsym => by rw [codeOf_congr hcode]; exact hvalid sym hsym) (by rw [codewords_congr hcode, hcap]; omega)
  have hvstatus := hcodes.status.trans hstatus
  have hcontent := happ.trans hcodes.bits
  rw [codewords_congr hcode] at hcontent
  obtain ⟨t, ht, hbits, -, htframe⟩ := finBody_closes hcontent (by rw [hvstatus]; exact herr) (by rw [hvstatus])
    (by rw [hcodes.params, hcap, List.length_append]; exact hroom)
  rw [← List.append_assoc] at hbits
  have hlength := State.eight_mul_olen hbits
  rw [List.length_replicate] at hlength
  refine ⟨u, v, t, exec_of_ok rfl nofun herr (by simp [Status.permits, hphase]) hu, hv, ?_, ?_, hbits, by omega, hlength⟩
  · rw [exec_fin (by rw [hvstatus]; exact herr) (by rw [hvstatus]), ht]
    rfl
  · rw [htframe, hvstatus]
    exact herr

/-! ## The bits of the input text (R75) -/

theorem inBits_byte (s : State) (a : Nat) : s.inBits (8 * a) 8 = bits8 (s.memRead a) := by
  rw [State.inBits, bits8_eq]
  refine List.map_congr_left fun k hk => ?_
  have hk := List.mem_range.1 hk
  rw [State.inBit, show (8 * a + k) / 8 = a by omega, show (8 * a + k) % 8 = k by omega]

/-- The input bit stream is the bits of the input text's bytes. -/
theorem inBits_inputText (s : State) : s.inBits 0 (8 * s.ilen) = s.inputText.flatMap bits8 := by
  rw [State.inputText]
  induction s.ilen with
  | zero => rfl
  | succ n ih =>
    rw [Nat.mul_succ, State.inBits_add, ih, Nat.zero_add, inBits_byte, List.range_succ, List.map_append, List.flatMap_append,
      List.map_singleton, List.flatMap_singleton]

@[simp] theorem inputText_loaded (p : Params) (content : List Byte) : (State.loaded p content).inputText = content :=
  inputText_withInput (State.initial p) content

/-- The bits of a loaded container behind its header byte. -/
theorem inBits_loaded_container (p : Params) (header : Byte) (rest : List Byte) :
    (State.loaded p (header :: rest)).inBits 8 (8 * (rest.length + 1) - 8) = rest.flatMap bits8 := by
  have hbits := inBits_inputText (State.loaded p (header :: rest))
  rw [inputText_loaded, List.flatMap_cons] at hbits
  have hrest := (State.inBits_eq_append hbits).2
  rwa [length_bits8, length_flatMap_bits8, Nat.zero_add, show 8 * rest.length = 8 * (rest.length + 1) - 8 by omega] at hrest

theorem bits8_injective : Function.Injective bits8 :=
  Function.LeftInverse.injective (g := fun s => BitVec.ofNat 8 (num s)) ofNat_num_bitsOfNat

/-- A byte sequence is determined by its bits. -/
theorem flatMap_bits8_injective {xs ys : List Byte} (h : xs.flatMap bits8 = ys.flatMap bits8) : xs = ys := by
  have hlength := congrArg List.length h
  rw [length_flatMap_bits8, length_flatMap_bits8] at hlength
  induction xs generalizing ys with
  | nil =>
    cases ys with
    | nil => rfl
    | cons y ys => cases hlength
  | cons x xs ih =>
    cases ys with
    | nil => cases hlength
    | cons y ys =>
      rw [List.length_cons, List.length_cons] at hlength
      rw [List.flatMap_cons, List.flatMap_cons] at h
      obtain ⟨hbyte, hrest⟩ := List.append_inj h (by rw [length_bits8, length_bits8])
      rw [bits8_injective hbyte, ih hrest (by omega)]

/-! ## A text of one symbol (R150, R165) -/

theorem firstSeen_of_seen {seen text : List Byte} (h : ∀ sym ∈ text, sym ∈ seen) : firstSeen seen text = [] := by
  induction text with
  | nil => rfl
  | cons sym text ih =>
    obtain ⟨hsym, htext⟩ := List.forall_mem_cons.1 h
    rw [firstSeen, if_pos hsym, ih htext]

theorem firstSeen_replicate (sym : Byte) (n : Nat) : firstSeen [] (List.replicate (n + 1) sym) = [sym] := by
  have hrest : firstSeen [sym] (List.replicate n sym) = [] :=
    firstSeen_of_seen fun _ hx => List.mem_singleton.2 (List.eq_of_mem_replicate hx)
  rw [List.replicate_succ, firstSeen, if_neg List.not_mem_nil, List.nil_append, hrest]

@[simp] theorem State.length_orderList (s : State) : s.orderList.length = s.nsym := by
  rw [State.orderList, List.length_map, List.length_range]

/-- The tree of a table of one symbol is that symbol's leaf (R150). -/
theorem twoQueueTree_of_orderList_singleton {s : State} {sym : Byte} (h : s.orderList = [sym]) :
    s.twoQueueTree = some (.leaf (s.freqOf sym) sym) := by
  have hnsym : s.nsym = 0 + 1 := by rw [← s.length_orderList, h]; rfl
  rw [State.twoQueueTree, State.leafTrees, h, hnsym]
  exact twoQueues_single ((queuesMerged_nil_right _).trans (List.mergeSort_singleton _))

/-- Where the tree is one leaf, a codeword has no bits (R150). -/
theorem codewords_of_leaf {s : State} {count : Nat} {root : Byte} (hcode : s.code = (Tree.leaf count root).codeTable)
    {text : List Byte} (hvalid : s.encodes text) : s.codewords text = [] := by
  refine List.flatMap_eq_nil_iff.2 fun sym hsym => ?_
  have hpath : (sym, (s.codeOf sym).bits) ∈ [(root, [])] := codeOf_mem_paths hcode (hvalid sym hsym)
  exact congrArg Prod.snd (List.mem_singleton.1 hpath)

/-- The bits of a LEAF record and seven zeros are two bytes. -/
theorem bits8_shifted (sym : Byte) :
    bits8 (sym >>> 1) ++ bits8 (sym <<< 7) = false :: symBits sym ++ List.replicate 7 false := by
  show _ = false :: bits8 sym ++ _
  simp [bits8_eq, List.range_succ]

/-- A container of one leaf and no codeword, padded to whole bytes, has three bytes (R165). -/
theorem outBytes_of_leaf {t : State} {sym : Byte}
    (h : t.outBytes.flatMap bits8 =
      bits8 (t.pad.setWidth 8) ++ (false :: symBits sym) ++ [] ++ List.replicate t.pad.toNat false) :
    t.outBytes = [0x07#8, sym >>> 1, sym <<< 7] := by
  have hlength := State.eight_mul_olen h
  have hsym : (symBits sym).length = 8 := length_bits8 sym
  rw [List.length_cons, hsym, List.length_nil, List.length_replicate] at hlength
  have hpad : t.pad = 7#3 := by
    have := t.pad.isLt
    exact BitVec.eq_of_toNat_eq (show t.pad.toNat = 7 by omega)
  rw [hpad, List.append_nil, List.append_assoc] at h
  refine flatMap_bits8_injective (h.trans ?_)
  show bits8 0x07#8 ++ _ = bits8 0x07#8 ++ (bits8 (sym >>> 1) ++ (bits8 (sym <<< 7) ++ []))
  rw [List.append_nil, bits8_shifted]
  rfl

theorem loaded_freqOk (p : Params) (content : List Byte) : (State.loaded p content).FreqOk :=
  (State.TableGrows.of_table_eq (s := State.initial p) (t := State.loaded p content) rfl).freqOk (State.initial_freqOk p)

/-- FADDT and BUILD of a loaded text of one symbol make that symbol's leaf the tree. -/
theorem count_and_build_single (p : Params) (sym : Byte) {n : Nat} (hpos : 1 ≤ n) (hfits : n ≤ p.countMax) :
    ∃ u v count, faddtBody (State.loaded p (List.replicate n sym)) = .ok () u ∧ buildBody u = .ok () v ∧
      v.HasTree (.leaf count sym) ∧ v.encodes v.inputText ∧ v.params = p ∧
      v.status = { Status.reset with rootv := true, codev := true, phase := .built } := by
  have hlength : (List.replicate n sym).length = n := List.length_replicate
  obtain ⟨u, v, tree, hu, hcounts, hv, htree, hqueues, hvalid, hstatus⟩ :=
    count_and_build (loaded_freqOk p (List.replicate n sym)) (show 1 ≤ 0 + (List.replicate n sym).length by omega)
      (show 0 + (List.replicate n sym).length ≤ p.countMax by omega)
  have hframe := buildBody_frame (.of_ok hv)
  have hframe' := addText_frame _ (.of_ok hu)
  have hinput : v.inputText = (State.loaded p (List.replicate n sym)).inputText := by rw [hframe, hframe']; rfl
  obtain ⟨m, rfl⟩ := Nat.exists_eq_add_of_le' hpos
  have horder : u.orderList = [sym] := by
    rw [hcounts.order, inputText_loaded]
    exact firstSeen_replicate sym m
  obtain rfl := Option.some.inj ((twoQueueTree_of_orderList_singleton horder).symm.trans hqueues)
  exact ⟨u, v, _, hu, hv, htree, hinput ▸ hvalid, by rw [hframe, hframe']; rfl, hstatus⟩

/-- COMP of a text of one symbol writes the header, the leaf and no codeword (R165). -/
theorem exec_comp_single (p : Params) (sym : Byte) {n : Nat} (hpos : 1 ≤ n) (hfits : n ≤ p.countMax) (hroom : 3 ≤ p.obufCap) :
    ∃ t, exec .comp (State.loaded p (List.replicate n sym)) = .next t ∧ t.status.err = false ∧
      t.outBytes = [0x07#8, sym >>> 1, sym <<< 7] := by
  obtain ⟨u, v, count, hu, hv, htree, hvalid, hparams, hstatus⟩ := count_and_build_single p sym hpos hfits
  have hwords : v.codewords v.inputText = [] := codewords_of_leaf htree.code_eq hvalid
  obtain ⟨t, ht, hbits, -, hframe⟩ := encode_compresses htree.tree? hvalid (by rw [hstatus]; rfl)
    (by rw [hwords, hparams, Tree.length_ser, Tree.size]; exact hroom)
  have hrun : compBody (State.loaded p (List.replicate n sym)) = .ok () t := by
    rw [compBody, hu, Res.bind_ok, hv, Res.bind_ok, if_neg (by rw [hstatus]; decide), ht]
  rw [hwords] at hbits
  exact ⟨t, exec_of_ok (i := .comp) rfl nofun rfl rfl hrun, by rw [hframe, hstatus]; rfl, outBytes_of_leaf hbits⟩

/-- Settles O56: the container of `exec_comp_single`, read as a container of one leaf with an empty payload, yields nothing. -/
theorem singleSymbolTextIsLost : Obligations.SingleSymbolTextIsLost := by
  unfold Obligations.SingleSymbolTextIsLost
  intro p sym n hpos hfits hroom
  obtain ⟨t, ht, herr, hbytes⟩ := exec_comp_single p sym hpos hfits hroom
  have hheader : (State.loaded p [0x07#8, sym >>> 1, sym <<< 7]).memRead 0 = 0x07#8 :=
    memRead_withInput (State.initial p) (Nat.zero_lt_succ 2)
  have hbits := inBits_loaded_container p 0x07#8 [sym >>> 1, sym <<< 7]
  obtain ⟨u, hu, ⟨huerr, -⟩, -, houtBytes, -⟩ :=
    decompDecodesContainer (State.loaded p [0x07#8, sym >>> 1, sym <<< 7]) (.leaf 0 sym) [] (List.replicate 7 false) rfl rfl rfl
      (Nat.le_add_left 1 2) (by rw [hheader]; rfl) (by decide) (show 1 ≤ 511 by decide) (fun _ => rfl) (List.forall_mem_nil _)
      (hbits.trans (bits8_shifted sym)) (Nat.zero_le _)
  exact ⟨t, u, ht, herr, hbytes, by rw [hbytes]; exact hu, huerr, houtBytes⟩

end Sys2Proof.Machine

/-!
PROOFS of the decode obligations: DESER (R183, R184), DEC1 (R185, R186), DECALL (R188, R189, R191), REWIND (R190), and the round
trip through COMP and DECOMP (R192).
-/

namespace Sys2Proof.Machine

/-! ## DESER of a tree's serialization (R183, R184) -/

/-- The code table has no counts in it (R146, D14). -/
@[simp] theorem Tree.codeTable_uncounted (t : Tree) : t.uncounted.codeTable = t.codeTable := by
  rw [Tree.codeTable, Tree.paths_uncounted, Tree.codeTable]

/-- DESER in phase HDR is its pseudocode. -/
theorem exec_deser {s : State} (herr : s.status.err = false) (hphase : s.status.phase = .hdr) :
    exec .deser s = (deserBody s).outcome :=
  exec_runs (i := .deser) rfl nofun herr (by simp [Status.permits, hphase])

theorem State.Rebuilds.nnode {s t : State} {tree : Tree} (h : s.Rebuilds t tree) : t.nnode = tree.size := by
  rw [← h.hasTree.size_eq, Tree.size_uncounted]

/-- Settles O40: `Des` reads the tree back from its serialization (`des_of_ser`), and the padding fits after it. -/
theorem deserRebuildsTree : Obligations.DeserRebuildsTree := by
  unfold Obligations.DeserRebuildsTree
  intro s tree herr hphase hsize hin hfits
  obtain ⟨t, ht, hrebuilds⟩ := deserBody_of_ser hsize hin hfits
  have hstatus : t.status = { s.status with rootv := true, codev := true, phase := .payload } :=
    (deserBody_endsStatus s).ok ht
  refine ⟨t, ?_, hrebuilds.hasTree.tree?, hrebuilds.nnode, hrebuilds.root, hrebuilds.icur, hrebuilds.pstart, hrebuilds.pend,
    hrebuilds.olen, ?_, ?_⟩
  · rw [exec_deser herr hphase, ht]
    rfl
  · rw [hrebuilds.hasTree.code_eq, Tree.codeTable_uncounted]
  · rw [← hstatus]
    exact deserBody_frame (.of_ok ht)

/-! ## The round trip (R192) -/

/-- A byte sequence whose bits begin with those of a byte begins with that byte. -/
theorem eq_cons_of_flatMap_bits8 {bytes : List Byte} {v : Byte} {rest : Bits} (h : bytes.flatMap bits8 = bits8 v ++ rest) :
    ∃ tail, bytes = v :: tail ∧ tail.flatMap bits8 = rest := by
  cases bytes with
  | nil => cases h
  | cons x tail =>
    rw [List.flatMap_cons] at h
    obtain ⟨hhead, htail⟩ := List.append_inj h (by rw [length_bits8, length_bits8])
    exact ⟨tail, by rw [bits8_injective hhead], htail⟩

/-- A single leaf gives one symbol a codeword (R150). -/
theorem isLeaf_eq_false_of_valid {s : State} {tree : Tree} (hcode : s.code = tree.codeTable) {a b : Byte} (hab : a ≠ b)
    (ha : (s.codeOf a).valid = true) (hb : (s.codeOf b).valid = true) : tree.isLeaf = false := by
  cases tree with
  | internal => rfl
  | leaf count root =>
    rw [codeOf_valid_iff hcode] at ha hb
    exact absurd ((List.mem_singleton.1 ha).trans (List.mem_singleton.1 hb).symm) hab

/-- What COMP of a loaded text has done: it has ended well, with the text's container under a tree that fits the node store and
gives each of the text's symbols a codeword. -/
structure State.HoldsContainer (t : State) (tree : Tree) (text : List Byte) : Prop where
  err : t.status.err = false
  size_le : tree.size ≤ 511
  code_eq : t.code = tree.codeTable
  encodes : t.encodes text
  bits : t.outBytes.flatMap bits8 =
    bits8 (t.pad.setWidth 8) ++ tree.ser ++ t.codewords text ++ List.replicate t.pad.toNat false

/-- COMP of a loaded text with something in it, whose counts and whose container fit (R203). -/
theorem exec_comp_loaded {p : Params} {text : List Byte} (hsome : 1 ≤ text.length) (hfits : text.length ≤ p.countMax)
    (hroom : 1 + (2559 + 255 * text.length + 7) / 8 ≤ p.obufCap) :
    ∃ t tree, exec .comp (State.loaded p text) = .next t ∧ t.HoldsContainer tree text := by
  obtain ⟨u, v, tree, hu, -, hv, htree, -, hvalid, hstatus⟩ :=
    count_and_build (loaded_freqOk p text) (show 1 ≤ 0 + text.length by omega) (show 0 + text.length ≤ p.countMax by omega)
  have hframe := buildBody_frame (.of_ok hv)
  have hframe' := addText_frame _ (.of_ok hu)
  have hparams : v.params = p := by rw [hframe, hframe']; rfl
  have hinput : v.inputText = text := (show v.inputText = _ by rw [hframe, hframe']; rfl).trans (inputText_loaded p text)
  rw [inputText_loaded, ← hinput] at hvalid
  have hser := tree.length_ser
  have hsize := htree.size_eq
  have hnnode := htree.nnode_le
  have hwords := htree.length_codewords_le v.inputText
  rw [hinput] at hwords
  obtain ⟨t, ht, hbits, -, htframe⟩ := encode_compresses htree.tree? hvalid (by rw [hstatus]; rfl)
    (by rw [hparams, hinput]; omega)
  have hcode : t.code = v.code := by rw [htframe]
  have hrun : compBody (State.loaded p text) = .ok () t := by
    rw [compBody, hu, Res.bind_ok, hv, Res.bind_ok, if_neg (by rw [hstatus]; exact Bool.false_ne_true), ht]
  rw [hinput] at hvalid hbits
  refine ⟨t, tree, exec_of_ok (i := .comp) rfl nofun rfl rfl hrun, by rw [htframe, hstatus]; rfl, by omega,
    hcode.trans htree.code_eq, fun sym hsym => ?_, ?_⟩
  · rw [codeOf_congr hcode]
    exact hvalid sym hsym
  · rw [hbits, codewords_congr hcode]

/-- The symbols of a text, each with its codeword. -/
def State.textEntries (s : State) (text : List Byte) : List (Byte × Bits) := text.map fun sym => (sym, (s.codeOf sym).bits)

theorem State.textEntries_symbols (s : State) (text : List Byte) : (s.textEntries text).map Prod.fst = text := by
  rw [State.textEntries, List.map_map]
  exact List.map_id text

theorem State.textEntries_codewords (s : State) (text : List Byte) : (s.textEntries text).flatMap Prod.snd = s.codewords text :=
  List.flatMap_map _ _ text

/-- DECOMP of a container that the host loads, of a text under a tree that is no single leaf, ends well with the text. -/
theorem exec_decomp_container {p : Params} {t : State} {tree : Tree} {text : List Byte} (h : t.HoldsContainer tree text)
    (hleaf : tree.isLeaf = false) (hroom : text.length ≤ p.obufCap) :
    ∃ u, exec .decomp (State.loaded p t.outBytes) = .next u ∧ u.status.err = false ∧ u.outBytes = text := by
  have hbits := h.bits
  rw [List.append_assoc, List.append_assoc, ← List.append_assoc tree.ser] at hbits
  obtain ⟨rest, hbytes, hrest⟩ := eq_cons_of_flatMap_bits8 hbits
  have hheader : (State.loaded p (t.pad.setWidth 8 :: rest)).memRead 0 = t.pad.setWidth 8 :=
    memRead_withInput (State.initial p) (Nat.zero_lt_succ rest.length)
  have hpad := t.pad.isLt
  have hmem (e : Byte × Bits) (he : e ∈ t.textEntries text) : e ∈ tree.paths [] := by
    obtain ⟨sym, hsym, rfl⟩ := List.mem_map.1 he
    exact codeOf_mem_paths h.code_eq (h.encodes sym hsym)
  have hin := inBits_loaded_container p (t.pad.setWidth 8) rest
  rw [hrest, ← t.textEntries_codewords] at hin
  obtain ⟨u, hu, ⟨huerr, -⟩, -, houtBytes, -⟩ :=
    decompDecodesContainer (State.loaded p (t.pad.setWidth 8 :: rest)) tree (t.textEntries text)
      (List.replicate t.pad.toNat false) rfl rfl rfl (Nat.le_add_left 1 rest.length)
      (by rw [hheader, List.length_replicate, BitVec.toNat_setWidth, Nat.mod_eq_of_lt (by omega)])
      (by rw [List.length_replicate]; exact hpad) h.size_le (by rw [hleaf]; nofun) hmem hin
      (by rw [State.textEntries, List.length_map]; exact hroom)
  exact ⟨u, by rw [hbytes]; exact hu, huerr, houtBytes.trans (t.textEntries_symbols text)⟩

/-- Settles O55: COMP writes the text's container (`exec_comp_loaded`), DECOMP reads it (`exec_decomp_container`), and with two
symbols in the text the tree is no single leaf. -/
theorem roundTrip : Obligations.RoundTrip := by
  unfold Obligations.RoundTrip
  intro p text a b ha hb hab hfits hcap hroom
  obtain ⟨t, tree, ht, hcontains⟩ := exec_comp_loaded (List.length_pos_of_mem ha) hfits hroom
  have hleaf := isLeaf_eq_false_of_valid hcontains.code_eq hab (hcontains.encodes a ha) (hcontains.encodes b hb)
  obtain ⟨u, hu, huerr, hutext⟩ := exec_decomp_container hcontains hleaf hcap
  exact ⟨t, u, ht, hcontains.err, hu, huerr, hutext⟩

/-! ## DESER that faults (R183, R184, R223) -/

/-- DESER's last lines, where the padding does not fit after the tree (R184). -/
theorem finishTree_short {root cur : Nat} {s : State} (h : 8 * s.ilen < cur + s.pad.toNat) :
    finishTree root cur s = .raised .malformedStream cur s := by
  rw [finishTree, if_pos h]

/-- A sequence that is stuck. -/
theorem Res.bind_eq_stuck {α β : Type} {r : Res α} {f : α → State → Res β} {g : Fault} :
    r.bind f = .stuck g ↔ r = .stuck g ∨ ∃ a u, r = .ok a u ∧ f a u = .stuck g := by
  cases r <;> simp

/-- Each level of `Des` takes a node, so fuel for the nodes that are left is never used up (R207). -/
theorem des_ne_stuck {fuel b : Nat} {s : State} (hn : s.nnode ≤ 511) (hfuel : 511 < fuel + s.nnode) (f : Fault) :
    des fuel b s ≠ .stuck f := by
  induction fuel generalizing b s with
  | zero => omega
  | succ fuel ih =>
    intro h
    rw [des] at h
    rcases takeNode_cases b s with ⟨_, hp⟩ | ⟨_, _, hp⟩ | ⟨_, hlt, hp⟩ <;> rw [hp] at h
    · cases h
    · cases h
    · rw [Res.bind_ok] at h
      split at h
      · split at h <;> cases h
      · rcases Res.bind_eq_stuck.1 h with h | ⟨l, u, hl, h⟩
        · exact ih (s := { s with nnode := s.nnode + 1 }) hlt (show 511 < fuel + (s.nnode + 1) by omega) h
        · obtain ⟨_, hleft⟩ := des_reads (i := l.1) (cur := l.2) hl
          have hnext : s.nnode + 1 < u.nnode := hleft.nnode_lt
          rcases Res.bind_eq_stuck.1 h with h | ⟨r, v, _, h⟩
          · exact ih hleft.nnode_le (by omega) h
          · cases h

/-- `Des` raises no other faults than these two, wherever it starts. -/
theorem des_raised_cause {fuel b n : Nat} {k : Cause} {s t : State} (h : des fuel b s = .raised k n t) (hn : s.nnode ≤ 511) :
    k = .malformedStream ∨ k = .nodeOverflow := by
  rcases le_total b (8 * s.ilen) with hb | hb
  · exact (des_raises h hb hn).1
  · cases fuel with
    | zero => cases h
    | succ fuel =>
      rw [des, takeNode, if_pos hb] at h
      cases h
      exact .inl rfl

/-- DESER ends: it reaches its last line, or it raises MalformedStream or NodeOverflow with only NODE and NNODE written. -/
theorem deserBody_ends (s : State) :
    (∃ t, deserBody s = .ok () t) ∨
      ∃ k n t, deserBody s = .raised k n t ∧ (k = .malformedStream ∨ k = .nodeOverflow) ∧
        t = { s with nodes := t.nodes, nnode := t.nnode } := by
  rw [deserBody]
  cases hdes : des (Config.nodeCap + 1) s.icur { s with nnode := 0 } with
  | stuck f => exact absurd hdes (des_ne_stuck (Nat.zero_le 511) (Nat.lt_succ_self 511) f)
  | raised k n u =>
    exact .inr ⟨k, n, u, rfl, des_raised_cause hdes (Nat.zero_le 511),
      des_frame (s := { s with nnode := 0 }) _ _ (.of_raised hdes)⟩
  | ok r u =>
    rw [Res.bind_ok]
    rcases Nat.lt_or_ge (8 * u.ilen) (r.2 + u.pad.toNat) with hshort | hfits
    · exact .inr ⟨_, _, u, finishTree_short hshort, .inl rfl, des_frame (s := { s with nnode := 0 }) _ _ (.of_ok hdes)⟩
    · obtain ⟨_, -, -, hnode, -, -, -, hholds⟩ := des_reads (i := r.1) (cur := r.2) hdes
      rw [Nat.sub_zero, ← List.range_eq_range'] at hholds
      obtain ⟨hcodes, -⟩ := deriveCodes_of_holds (s := u.payloadAt r.1 r.2) (hholds.congr le_rfl fun _ _ => rfl) hnode .rfl
      exact .inl ⟨_, finishTree_fits hfits hcodes⟩

/-- Settles O41: DESER's pseudocode ends (`deserBody_ends`), and where it reaches its last line no fault is recorded. -/
theorem deserFaultKeepsRegisters : Obligations.DeserFaultKeepsRegisters := by
  unfold Obligations.DeserFaultKeepsRegisters
  intro s herr hphase
  rw [exec_deser herr hphase]
  rcases deserBody_ends s with ⟨t, ht⟩ | ⟨k, n, t, ht, hk, hframe⟩ <;> rw [ht]
  · refine ⟨t, rfl, fun hfault => ?_⟩
    rw [(deserBody_endsStatus s).ok ht] at hfault
    exact absurd (herr.symm.trans hfault) Bool.false_ne_true
  · refine ⟨t.raise k n, rfl, fun _ => ⟨hk, ?_⟩⟩
    rw [hframe]
    rfl

/-- DESER of the serialization of a tree with too few bits after it for the padding (R184). -/
theorem deserBody_of_ser_short {s : State} {tree : Tree} (hsize : tree.size ≤ 511)
    (hin : s.inBits s.icur tree.ser.length = tree.ser) (hb : s.icur + tree.ser.length ≤ 8 * s.ilen)
    (hshort : 8 * s.ilen < s.icur + tree.ser.length + s.pad.toNat) :
    ∃ t, deserBody s = .raised .malformedStream (s.icur + tree.ser.length) t ∧ t.nnode = tree.size := by
  have hheight := tree.height_le_size
  obtain ⟨t, ht, hreads⟩ := des_of_ser (s := { s with nnode := 0 }) (fuel := Config.nodeCap + 1) (b := s.icur)
    (by rw [Config.nodeCap]; omega) ((Nat.zero_add _).trans_le hsize) hb hin
  have hframe : t = { s with nodes := t.nodes, nnode := t.nnode } := des_frame (s := { s with nnode := 0 }) _ _ (.of_ok ht)
  refine ⟨t, ?_, by rw [hreads.nnode_eq, Tree.size_uncounted]; exact Nat.zero_add _⟩
  rw [deserBody, ht, Res.bind_ok, finishTree_short]
  rw [hframe]
  exact hshort

/-- Settles O42: the padding fits after the tree (`deserBody_of_ser`), or it does not (`deserBody_of_ser_short`). -/
theorem deserDelimitsPayload : Obligations.DeserDelimitsPayload := by
  unfold Obligations.DeserDelimitsPayload
  intro s tree herr hphase hsize hin hb
  rw [exec_deser herr hphase]
  rcases Nat.lt_or_ge (8 * s.ilen) (s.icur + tree.ser.length + s.pad.toNat) with hshort | hfits
  · obtain ⟨t, ht, hnnode⟩ := deserBody_of_ser_short hsize hin hb hshort
    rw [ht]
    exact ⟨_, rfl, hnnode, fun hfits => absurd hshort (Nat.not_lt.2 hfits), fun _ => ⟨rfl, rfl, rfl⟩⟩
  · obtain ⟨t, ht, hrebuilds⟩ := deserBody_of_ser hsize hin hfits
    have hterr : t.status.err = false := by rw [(deserBody_endsStatus s).ok ht]; exact herr
    rw [ht]
    exact ⟨t, rfl, hrebuilds.nnode, fun _ => ⟨hterr, hrebuilds.pstart.trans hrebuilds.icur, hrebuilds.pend⟩,
      fun hshort => absurd hshort (Nat.not_lt.2 hfits)⟩

/-! ## DEC1 (R185, R186) -/

/-- `Walk1`'s loop raises MalformedStream at the codeword's start where the bits end before `decode_one` finds a leaf. -/
theorem walkFrom_of_decodeOne_none {s : State} {i : Nat} {t : Tree} {is : List Nat} (h : s.HoldsTree i t is) (c0 : Nat)
    {left c : Nat} (hd : t.decodeOne (s.inBits c left) = none) :
    walkFrom c0 left i c s = .raised .malformedStream c0 s := by
  induction h generalizing left c with
  | leaf => cases hd
  | @internal i l r ls rs hi hleaf _ _ ihl ihr =>
    cases left with
    | zero => rw [walkFrom, if_neg (Nat.not_le.2 hi), if_neg (by simp [hleaf])]
    | succ left =>
      rw [State.inBits_succ, Tree.decodeOne] at hd
      rw [walkFrom_internal hi hleaf, State.childOf]
      split at hd
      · next hbit => rw [if_pos hbit]; exact ihr hd
      · next hbit => rw [if_neg hbit]; exact ihl hd

/-- `Walk1` at the cursor, where the payload ends inside a codeword. -/
theorem walk1_cut {s : State} {tree : Tree} (htree : s.tree? = some tree) (hcut : tree.decodeOne s.payloadLeft = none) :
    walk1 s.icur s = .raised .malformedStream s.icur s := by
  obtain ⟨is, hholds⟩ := State.holdsTree_of_treeAt? htree
  exact walkFrom_of_decodeOne_none hholds s.icur hcut

/-- Settles O43: the walk goes where `decode_one` goes in the tree, to a leaf or to the payload's end. -/
theorem dec1DecodesOne : Obligations.Dec1DecodesOne := by
  unfold Obligations.Dec1DecodesOne
  intro s tree herr hphase htree hcur
  have hexec : exec .dec1 s = (dec1Body s).outcome :=
    exec_runs (i := .dec1) rfl nofun herr (by simp [Status.permits, hphase])
  rw [hexec, dec1Body]
  refine ⟨fun sym rest hdecode => ?_, fun hcut => ?_⟩
  · obtain ⟨is, hholds⟩ := State.holdsTree_of_treeAt? htree
    have hwalk : walk1 s.icur s = .ok (sym, s.icur + (s.pend - s.icur) - rest.length) s :=
      walkFrom_of_decodeOne hholds s.icur hdecode
    rw [hwalk, Nat.add_sub_of_le hcur]
    rfl
  · rw [walk1_cut htree hcut]
    rfl

/-! ## DECALL and REWIND (R188 to R191) -/

/-- DECALL in phase PAYLOAD is its pseudocode. -/
theorem exec_decall {s : State} (herr : s.status.err = false) (hphase : s.status.phase = .payload) :
    exec .decall s = (decallBody s).outcome :=
  exec_runs (i := .decall) rfl nofun herr (by simp [Status.permits, hphase])

/-- Settles O44: DECALL yields the codewords' symbols one by one (`decallBody_entries`). -/
theorem decallDecodesPayload : Obligations.DecallDecodesPayload := by
  unfold Obligations.DecallDecodesPayload
  intro s tree entries herr hphase htree hleaf hmem hcur hleft hroom
  obtain ⟨t, ht, hyields, hicur⟩ := decallBody_entries htree hleaf hmem hcur hleft hroom
  refine ⟨t, ?_, hicur, hyields.olen, hyields.outBytes, hyields.obuf, hyields.frame⟩
  rw [exec_decall herr hphase, ht]
  rfl

/-- At a single leaf no bits are too few (R150, R185). -/
theorem Tree.isLeaf_eq_false_of_decodeOne_none {t : Tree} {bits : Bits} (h : t.decodeOne bits = none) : t.isLeaf = false := by
  cases t with
  | leaf => cases h
  | internal => rfl

/-- DECALL's loop at a payload that ends inside its next codeword (R191). -/
theorem decodeAll_cut {fuel : Nat} {s : State} {tree : Tree} (htree : s.tree? = some tree) (hlt : s.icur < s.pend)
    (hfuel : s.pend - s.icur ≤ fuel) (hcut : tree.decodeOne s.payloadLeft = none) :
    decodeAll fuel s = .raised .malformedStream s.icur s := by
  obtain ⟨fuel, rfl⟩ := Nat.exists_eq_succ_of_ne_zero (show fuel ≠ 0 by omega)
  rw [decodeAll, if_pos hlt, walk1_cut htree hcut]
  rfl

/-- Settles O45: the loop yields the codewords before, and its next turn finds the payload cut inside a codeword. -/
theorem decallKeepsPartialResult : Obligations.DecallKeepsPartialResult := by
  unfold Obligations.DecallKeepsPartialResult
  intro s tree entries tail herr hphase htree hmem hcur hleft hne hcut hroom
  have hleaf := Tree.isLeaf_eq_false_of_decodeOne_none hcut
  obtain ⟨t, fuel', hrun, hfuel', htail, hyields⟩ := decodeAll_entries hleaf hmem htree hleft hroom le_rfl
  have hframe := hyields.frame
  have htree' : t.tree? = some tree := (tree?_congr (by rw [hframe]) (by rw [hframe]) (by rw [hframe])).trans htree
  have hlt : t.icur < t.pend := State.icur_lt_pend hne (htail.trans (List.append_nil tail).symm)
  have hraise := decodeAll_cut htree' hlt hfuel' (htail ▸ hcut)
  refine ⟨t.raise .malformedStream t.icur, ?_, ?_, rfl, rfl, hyields.icur, hyields.outBytes, ?_⟩
  · rw [exec_decall herr hphase, decallBody_internal htree hleaf, hrun, hraise]
    rfl
  · show { t.status with err := true } = _
    rw [hframe]
  · rw [hframe]
    rfl

/-- Settles O47: the root is a leaf and the payload is not empty, so the loop is not entered. -/
theorem decallDegenerateFaults : Obligations.DecallDegenerateFaults := by
  unfold Obligations.DecallDegenerateFaults
  intro s herr hphase hroot hleaf hlt
  have hraise : decallBody s = .raised .degenerateTree s.icur s := by
    rw [decallBody, if_neg (Nat.not_le.2 hroot), if_pos (by rw [hleaf, decide_eq_true hlt]; rfl)]
  rw [exec_decall herr hphase, hraise]
  rfl

/-- A command other than CLR, out of phase and with no fault recorded, raises PhaseError with its word (R229). -/
theorem exec_outOfPhase {i : Instr} {s : State} (hi : i.place = .command) (hclr : i ≠ .clr) (herr : s.status.err = false)
    (hperm : s.status.permits i = false) : exec i s = .next (s.raise .phaseError (commandWord i).toNat) := by
  rw [exec_command hi hclr, runCommand, if_neg (by simp [herr]), if_neg (by simp [hperm])]

/-- Settles O48: REWIND is in phase exactly in PAYLOAD. -/
theorem rewindRestartsDecoding : Obligations.RewindRestartsDecoding := by
  unfold Obligations.RewindRestartsDecoding
  refine ⟨rfl, fun s herr => ⟨fun hphase => ?_, fun hphase => ?_⟩⟩
  · exact exec_of_ok (i := .rewind) rfl nofun herr (by simp [Status.permits, hphase]) rfl
  · exact exec_outOfPhase (i := .rewind) rfl nofun herr (by simp [Status.permits, hphase])

end Sys2Proof.Machine

/-!
PROOFS of the system obligations: every command ends (R207, R223), the composite commands are their parts (R203, R205, R206), CLR
and the reset input (R201, R260), and NOP (R200).
-/

namespace Sys2Proof.Machine

/-! ## Pseudocode that ends (R207) -/

/-- The pseudocode ends, at its last line or at a `raise`. -/
def Res.NotStuck {α : Type} (r : Res α) : Prop := ∀ f, r ≠ .stuck f

namespace Res.NotStuck

theorem of_ok {α : Type} {a : α} {s : State} : (Res.ok a s).NotStuck := fun _ => nofun

theorem of_raised {α : Type} {k : Cause} {n : Nat} {s : State} : (Res.raised k n s : Res α).NotStuck := fun _ => nofun

theorem bind {α β : Type} {r : Res α} {f : α → State → Res β} (hr : r.NotStuck)
    (hf : ∀ a u, r = .ok a u → (f a u).NotStuck) : (r.bind f).NotStuck := by
  intro g h
  rcases Res.bind_eq_stuck.1 h with h | ⟨a, u, hu, h⟩
  · exact hr g h
  · exact hf a u hu g h

theorem outcome_eq_next {r : Res Unit} (h : r.NotStuck) : ∃ t, r.outcome = .next t := by
  cases r with
  | ok a t => exact ⟨t, rfl⟩
  | raised k n t => exact ⟨t.raise k n, rfl⟩
  | stuck f => exact absurd rfl (h f)

end Res.NotStuck

/-! ### The encoder -/

theorem putBits_notStuck (bits : Bits) (s : State) : (putBits bits s).NotStuck := by
  induction bits generalizing s with
  | nil => exact .of_ok
  | cons b bits ih =>
    refine .bind ?_ fun _ u _ => ih u
    rcases putBit_cases b s with ⟨_, hp⟩ | ⟨_, _, hp⟩ | ⟨_, _, hp⟩ <;> rw [hp]
    · exact .of_ok
    · exact .of_ok
    · exact .of_raised

theorem encodeSymbol_notStuck (sym : Byte) (s : State) : (encodeSymbol sym s).NotStuck := by
  rcases encodeSymbol_cases sym s with ⟨_, hp⟩ | ⟨_, hp⟩ <;> rw [hp]
  · exact putBits_notStuck _ s
  · exact .of_raised

theorem encodeText_notStuck (text : List Byte) (s : State) : (encodeText text s).NotStuck := by
  induction text generalizing s with
  | nil => exact .of_ok
  | cons sym text ih => exact (encodeSymbol_notStuck sym s).bind fun _ u _ => ih u

theorem sertBody_notStuck {s : State} {tree : Tree} (htree : s.tree? = some tree) : (sertBody s).NotStuck := by
  rw [sertBody.eq_def, htree]
  exact (putBits_notStuck _ _).bind fun _ _ _ => .of_ok

theorem finBody_notStuck (s : State) : (finBody s).NotStuck := by
  refine .bind ?_ fun _ _ _ => .of_ok
  rcases flushPartial_cases s with ⟨_, hf⟩ | ⟨_, _, hf⟩ | ⟨_, _, hf⟩ <;> rw [hf]
  · exact .of_ok
  · exact .of_raised
  · exact .of_ok

/-! ### The frequency table and the tree -/

/-- A symbol not yet counted finds a free rank in ORDER (R39, R131). -/
theorem addSym_notStuck (sym : Byte) {s : State} (h : s.FreqOk) : (addSym sym s).NotStuck := by
  rcases addSym_cases sym s with ⟨_, hp⟩ | ⟨_, hf, hn, _⟩ | ⟨_, _, _, hp⟩ | ⟨_, _, hp⟩
  · rw [hp]; exact .of_raised
  · exact absurd (h.nsym_lt hf) (Nat.not_lt.2 hn)
  · rw [hp]; exact .of_ok
  · rw [hp]; exact .of_ok

theorem addText_notStuck (text : List Byte) {s : State} (h : s.FreqOk) : (addText text s).NotStuck := by
  induction text generalizing s with
  | nil => exact .of_ok
  | cons sym text ih =>
    exact (addSym_notStuck sym h).bind fun _ u hu => ih ((addSym_tableGrows (.of_ok hu)).freqOk h)

theorem buildBody_notStuck {s : State} (h : s.FreqOk) : (buildBody s).NotStuck := by
  by_cases h0 : s.nsym = 0
  · rw [buildBody, if_pos h0]
    exact .of_ok
  · obtain ⟨t, _, hb, _⟩ := buildBody_tree h0 h.nsym_le
    rw [hb]
    exact .of_ok

theorem cwlkBody_notStuck (sym : Byte) (s : State) : (cwlkBody sym s).NotStuck := by
  rw [cwlkBody]
  split
  · exact .of_ok
  · exact .of_raised

/-! ### The decoder -/

theorem ldhdrBody_notStuck (s : State) : (ldhdrBody s).NotStuck := by
  rw [ldhdrBody]
  split
  · exact .of_ok
  · rw [loadHeader]
    split
    · exact .of_raised
    · exact .of_ok

theorem deserBody_notStuck (s : State) : (deserBody s).NotStuck := by
  rcases deserBody_ends s with ⟨t, ht⟩ | ⟨k, n, t, ht, _⟩ <;> rw [ht]
  · exact .of_ok
  · exact .of_raised

/-- `Walk1` in a tree reaches a leaf, or the end of the payload (R185). -/
theorem walk1_notStuck {s : State} {tree : Tree} (htree : s.tree? = some tree) : (walk1 s.icur s).NotStuck := by
  obtain ⟨is, hholds⟩ := State.holdsTree_of_treeAt? htree
  cases hd : tree.decodeOne s.payloadLeft with
  | none => rw [walk1_cut htree hd]; exact .of_raised
  | some r =>
    rw [walk1, walkFrom_of_decodeOne hholds s.icur (sym := r.1) (rest := r.2) hd]
    exact .of_ok

theorem dec1Body_notStuck {s : State} {tree : Tree} (htree : s.tree? = some tree) : (dec1Body s).NotStuck :=
  (walk1_notStuck htree).bind fun _ _ _ => .of_ok

theorem putByte_notStuck (v : Byte) (s : State) : (putByte v s).NotStuck := by
  rcases putByte_cases v s with ⟨_, hp⟩ | ⟨_, hp⟩ <;> rw [hp]
  · exact .of_ok
  · exact .of_raised

/-- `PutByte` leaves the node store. -/
theorem putByte_tree? {v : Byte} {s t : State} (h : putByte v s = .ok () t) : t.tree? = s.tree? := by
  rcases putByte_cases v s with ⟨_, hp⟩ | ⟨_, hp⟩ <;> rw [hp] at h <;> cases h
  exact tree?_congr rfl rfl rfl

theorem decodeAll_notStuck (fuel : Nat) {s : State} {tree : Tree} (htree : s.tree? = some tree) :
    (decodeAll fuel s).NotStuck := by
  induction fuel generalizing s with
  | zero => exact .of_ok
  | succ fuel ih =>
    rw [decodeAll]
    split
    · refine (walk1_notStuck htree).bind fun r u hu => ?_
      obtain rfl := walkFrom_frame _ _ _ _ (.of_ok hu)
      refine (putByte_notStuck r.1 u).bind fun _ v hv => ih (s := { v with icur := r.2 }) ?_
      have hmoved : { v with icur := r.2 }.tree? = v.tree? := tree?_congr rfl rfl rfl
      rw [hmoved, putByte_tree? hv, htree]
    · exact .of_ok

theorem decallBody_notStuck {s : State} {tree : Tree} (htree : s.tree? = some tree) : (decallBody s).NotStuck := by
  obtain ⟨is, hholds⟩ := State.holdsTree_of_treeAt? htree
  rw [decallBody, if_neg (Nat.not_le.2 hholds.lt_nnode)]
  split
  · exact .of_raised
  · exact decodeAll_notStuck _ htree

/-! ### COMP, DECOMP and every command -/

/-- After BUILD, EMPTY tells whether there was anything to build (R149). -/
theorem buildBody_phase {s t : State} (h : buildBody s = .ok () t) (hempty : ¬ t.status.empty = true) :
    t.status.phase = .built := by
  have ht := (buildBody_endsStatus s).ok h
  split at ht
  · exact absurd (by rw [ht]; rfl) hempty
  · rw [ht]; rfl

/-- After LDHDR, EMPTY tells whether there was a header to read (R182). -/
theorem ldhdrBody_phase {s t : State} (h : ldhdrBody s = .ok () t) (hempty : ¬ t.status.empty = true) :
    t.status.phase = .hdr := by
  have ht := (ldhdrBody_endsStatus s).ok h
  split at ht
  · exact absurd (by rw [ht]; rfl) hempty
  · rw [ht]

/-- In BUILT and in PAYLOAD there is a tree (R26, R41). -/
theorem State.Running.exists_tree {s : State} (h : s.Running) (hp : s.status.phase = .built ∨ s.status.phase = .payload) :
    ∃ tree, s.tree? = some tree := by
  have hrootv : s.status.rootv = true := by
    have hflags := h.flags
    rcases hp with hp | hp <;> (rw [Status.flagsOk, hp] at hflags; exact hflags.1)
  obtain ⟨tree, htree, -⟩ := h.tree.tree hrootv
  exact ⟨tree, htree⟩

theorem compBody_notStuck {s : State} (h : s.Running) (hp : s.status.phase = .count) : (compBody s).NotStuck := by
  refine (addText_notStuck _ h.freq).bind fun _ u hu => ?_
  have hrunning := (addText_keepsInv _ h).ok hu
  have hup : u.status.phase = .count := by rw [(addText_endsStatus _ s).ok hu, hp]
  refine (buildBody_notStuck hrunning.freq).bind fun _ v hv => ?_
  split
  · exact .of_ok
  · next hempty =>
    obtain ⟨tree, htree⟩ := ((buildBody_keepsInv hrunning hup).ok hv).exists_tree (.inl (buildBody_phase hv hempty))
    exact (sertBody_notStuck htree).bind fun _ w _ => (encodeText_notStuck _ w).bind fun _ x _ => finBody_notStuck x

theorem decompBody_notStuck {s : State} (h : s.Running) (hp : s.status.phase = .count) : (decompBody s).NotStuck := by
  refine (ldhdrBody_notStuck s).bind fun _ u hu => ?_
  split
  · exact .of_ok
  · next hempty =>
    refine (deserBody_notStuck u).bind fun _ v hv => ?_
    have hrunning := (deserBody_keepsInv ((ldhdrBody_keepsInv h hp).ok hu) (ldhdrBody_phase hu hempty)).ok hv
    obtain ⟨tree, htree⟩ := hrunning.exists_tree (.inr (by rw [(deserBody_endsStatus u).ok hv]; rfl))
    exact decallBody_notStuck htree

/-- The pseudocode of a command in phase ends, in a state of the invariant. -/
theorem commandBody_notStuck {i : Instr} {s : State} (h : s.Running) (hperm : s.status.permits i = true) :
    (commandBody i s).NotStuck := by
  have hphase {p : Phase} (hp : (s.status.phase == p) = true) : s.status.phase = p := by simpa using hp
  have hpayload (hp : (s.status.phase == .payload) = true) : ∃ tree, s.tree? = some tree := h.exists_tree (.inr (hphase hp))
  cases i with
  | fadd sym => exact addSym_notStuck sym h.freq
  | faddt => exact addText_notStuck _ h.freq
  | build => exact buildBody_notStuck h.freq
  | cwlk sym => exact cwlkBody_notStuck sym s
  | sert =>
    obtain ⟨tree, htree⟩ := h.exists_tree (.inl (hphase hperm))
    exact sertBody_notStuck htree
  | enc sym => exact encodeSymbol_notStuck sym s
  | enct => exact encodeText_notStuck _ s
  | fin => exact finBody_notStuck s
  | ldhdr => exact ldhdrBody_notStuck s
  | deser => exact deserBody_notStuck s
  | dec1 =>
    obtain ⟨tree, htree⟩ := hpayload hperm
    exact dec1Body_notStuck htree
  | decall =>
    obtain ⟨tree, htree⟩ := hpayload hperm
    exact decallBody_notStuck htree
  | comp => exact compBody_notStuck h (hphase hperm)
  | decomp => exact decompBody_notStuck h (hphase hperm)
  | nop | clr | fcnt sym | rewind | hdr v | leaf sym | internal | pbit b | padbit => exact .of_ok

/-- While a fault is recorded a command other than CLR does nothing (R224). -/
theorem exec_of_err {i : Instr} {s : State} (hi : i.place = .command) (hclr : i ≠ .clr) (herr : s.status.err = true) :
    exec i s = .next s := by
  rw [exec_command hi hclr, runCommand, if_pos herr]

/-- Every command has a next state: recorded fault, phase and pseudocode, the three checks of R225, in turn. -/
theorem exec_command_completes {i : Instr} {s : State} (h : s.Inv) (hi : i.place = .command) : ∃ t, exec i s = .next t := by
  by_cases hclr : i = .clr
  · subst hclr
    exact ⟨_, rfl⟩
  · cases herr : s.status.err with
    | true => exact ⟨s, exec_of_err hi hclr herr⟩
    | false =>
      cases hperm : s.status.permits i with
      | false => exact ⟨_, exec_outOfPhase hi hclr herr hperm⟩
      | true =>
        rw [exec_runs hi hclr herr hperm]
        exact (commandBody_notStuck (h.running herr) hperm).outcome_eq_next

theorem onCmdWrite_completes {s : State} (h : s.Inv) (w : CmdWord) : ∃ t, onCmdWrite w s = .next t := by
  rcases onCmdWrite_cases w s with ⟨i, _, hplace, hw⟩ | ⟨_, hw⟩ <;> rw [hw]
  · exact exec_command_completes h hplace
  · exact ⟨_, rfl⟩

/-- Where the reset input comes next it is the first of the host's moves. -/
theorem State.hostMoves_of_resetNext {s : State} (h : s.resetNext = true) : ∃ rest, s.hostMoves = .reset :: rest := by
  rw [State.resetNext, beq_iff_eq] at h
  exact List.head?_eq_some_iff.1 h

/-- Settles O60: the reset input leaves the reset state; else the waiting command has a next state, and BUSY falls at its end. -/
theorem commandsAlwaysComplete : Obligations.CommandsAlwaysComplete := by
  unfold Obligations.CommandsAlwaysComplete
  intro s h hbusy
  cases hr : s.resetNext with
  | true =>
    obtain ⟨rest, hmoves⟩ := State.hostMoves_of_resetNext hr
    exact ⟨_, step_reset hmoves, rfl⟩
  | false =>
    obtain ⟨t, ht⟩ := onCmdWrite_completes h s.cmd
    exact ⟨t.endCommand, by rw [step_of_busy hr hbusy, commandStep, ht]; rfl, rfl⟩

/-! ## Commands in sequence (R206) -/

/-- A run of commands that does nothing while a fault is recorded (R224). -/
def IgnoresFault (next : State → Host.Outcome State Fault Refusal) : Prop :=
  ∀ s : State, s.status.err = true → next s = .next s

theorem IgnoresFault.exec {i : Instr} (hi : i.place = .command) (hclr : i ≠ .clr) : IgnoresFault (exec i) :=
  fun _ herr => exec_of_err hi hclr herr

theorem IgnoresFault.andThen {first next : State → Host.Outcome State Fault Refusal} (hfirst : IgnoresFault first)
    (hnext : IgnoresFault next) : IgnoresFault fun s => Outcome.andThen (first s) next := by
  intro s herr
  simp only [hfirst s herr]
  exact hnext s herr

/-- The rest of a composite command, which EMPTY ends early (R203, R205). -/
theorem IgnoresFault.unlessEmpty {next : State → Host.Outcome State Fault Refusal} (h : IgnoresFault next) :
    IgnoresFault fun s => if s.status.empty then .next s else next s := by
  intro s herr
  simp only [h s herr, ite_self]

/-- A command in phase and then a run of others: its pseudocode and then, where that reached its last line, theirs. Where it raised,
the others find the fault recorded. -/
theorem exec_andThen {i : Instr} {s : State} {next : State → Host.Outcome State Fault Refusal}
    {body : Unit → State → Res Unit} (hi : i.place = .command) (hclr : i ≠ .clr) (herr : s.status.err = false)
    (hperm : s.status.permits i = true) (hnext : IgnoresFault next)
    (hok : ∀ u, commandBody i s = .ok () u → next u = (body () u).outcome) :
    Outcome.andThen (exec i s) next = ((commandBody i s).bind body).outcome := by
  rw [exec_runs hi hclr herr hperm]
  cases hb : commandBody i s with
  | ok _ u => exact hok u hb
  | raised k n u => exact hnext (u.raise k n) rfl
  | stuck f => rfl

/-- SERT, ENCT and FIN one after another, in phase BUILT. -/
theorem encode_parts {s : State} (herr : s.status.err = false) (hphase : s.status.phase = .built) :
    Outcome.andThen (exec .sert s) (fun s => Outcome.andThen (exec .enct s) (exec .fin)) =
      ((sertBody s).bind fun _ s => (enctBody s).bind fun _ s => finBody s).outcome := by
  refine exec_andThen (i := .sert) rfl nofun herr (by simp [Status.permits, hphase])
    (.andThen (.exec rfl nofun) (.exec rfl nofun)) fun u hu => ?_
  have hstream : u.status = { s.status with phase := .stream } := (sertBody_endsStatus s).ok hu
  refine exec_andThen (i := .enct) rfl nofun (by rw [hstream, herr]) (by simp [Status.permits, hstream])
    (.exec rfl nofun) fun v hv => ?_
  have hstatus : v.status = u.status := (encodeText_endsStatus _ u).ok hv
  exact exec_runs (i := .fin) rfl nofun (by rw [hstatus, hstream, herr]) (by simp [Status.permits, hstatus, hstream])

/-- COMP is FADDT, BUILD and, unless EMPTY, SERT, ENCT and FIN (R203). -/
theorem exec_comp_eq_parts {s : State} (herr : s.status.err = false) (hphase : s.status.phase = .count) :
    exec .comp s = compParts s := by
  rw [exec_runs (i := .comp) rfl nofun herr (by simp [Status.permits, hphase])]
  have hencode : IgnoresFault fun s => Outcome.andThen (exec .sert s) fun s => Outcome.andThen (exec .enct s) (exec .fin) :=
    .andThen (.exec rfl nofun) (.andThen (.exec rfl nofun) (.exec rfl nofun))
  refine (exec_andThen (i := .faddt) rfl nofun herr (by simp [Status.permits, hphase])
    (.andThen (.exec (i := .build) rfl nofun) hencode.unlessEmpty) fun u hu => ?_).symm
  have hstatus : u.status = s.status := (addText_endsStatus _ s).ok hu
  have huerr : u.status.err = false := by rw [hstatus, herr]
  refine exec_andThen (i := .build) rfl nofun huerr (by simp [Status.permits, hstatus, hphase]) hencode.unlessEmpty
    fun v hv => ?_
  split
  · rfl
  · next hempty =>
    have hverr : v.status.err = false := by
      rw [(commandBody_endsStatus (i := .build) nofun nofun u).ok hv, State.statusAfter_err, huerr]
    exact encode_parts hverr (buildBody_phase hv hempty)

/-- DECOMP is LDHDR and, unless EMPTY, DESER and DECALL (R205). -/
theorem exec_decomp_eq_parts {s : State} (herr : s.status.err = false) (hphase : s.status.phase = .count) :
    exec .decomp s = decompParts s := by
  rw [exec_runs (i := .decomp) rfl nofun herr (by simp [Status.permits, hphase])]
  have hdecode : IgnoresFault fun s => Outcome.andThen (exec .deser s) (exec .decall) :=
    .andThen (.exec rfl nofun) (.exec rfl nofun)
  refine (exec_andThen (i := .ldhdr) rfl nofun herr (by simp [Status.permits, hphase]) hdecode.unlessEmpty
    fun u hu => ?_).symm
  have huerr : u.status.err = false := by
    rw [(commandBody_endsStatus (i := .ldhdr) nofun nofun s).ok hu, State.statusAfter_err, herr]
  split
  · rfl
  · next hempty =>
    refine exec_andThen (i := .deser) rfl nofun huerr (by simp [Status.permits, ldhdrBody_phase hu hempty])
      (.exec rfl nofun) fun v hv => ?_
    have hstatus : v.status = u.status.withTree .payload := (deserBody_endsStatus u).ok hv
    exact exec_decall (by rw [hstatus]; exact huerr) (by rw [hstatus]; rfl)

/-- Settles O52: after a part that ends well the next one is in phase, and after one that raises the others do nothing. -/
theorem compositesAreTheirParts : Obligations.CompositesAreTheirParts := by
  unfold Obligations.CompositesAreTheirParts
  intro s herr hphase
  exact ⟨exec_comp_eq_parts herr hphase, exec_decomp_eq_parts herr hphase⟩

/-! ## CLR, the reset input and NOP (R200 to R202, R260) -/

/-- Settles O14: CLR is `State.cleared`, and a reset input is the next step in every state (`step_reset`). -/
theorem clrAndResetDiscardAll : Obligations.ClrAndResetDiscardAll := by
  unfold Obligations.ClrAndResetDiscardAll
  exact ⟨fun _ => rfl, fun _ _ hmoves => step_reset hmoves⟩

/-- Settles O15: with a fault recorded no command acts, and without one NOP is in phase and has nothing to do. -/
theorem nopChangesNothing : Obligations.NopChangesNothing := by
  unfold Obligations.NopChangesNothing
  refine ⟨rfl, fun s => ?_⟩
  cases herr : s.status.err with
  | true => exact exec_of_err (i := .nop) rfl nofun herr
  | false => exact exec_of_ok (i := .nop) rfl nofun herr rfl rfl

end Sys2Proof.Machine

/-!
PROOFS of the exception obligations: a recorded fault (R224) and a command out of phase (R229).
-/

namespace Sys2Proof.Machine

/-! ## Words that CMD holds while a fault is recorded (R224) -/

/-- While a fault is recorded a word other than CLR's does nothing, whether it names a command or is illegal (R225 step 1). -/
theorem onCmdWrite_of_err {w : CmdWord} {s : State} (hw : w ≠ 0x0100#16) (herr : s.status.err = true) :
    onCmdWrite w s = .next s := by
  rcases onCmdWrite_cases w s with ⟨i, hdecode, hplace, hexec⟩ | ⟨_, hillegal⟩
  · have hclr : i ≠ .clr := by
      rintro rfl
      exact hw (decodeCommand_eq_clr hdecode)
    exact hexec.trans (exec_of_err hplace hclr herr)
  · rw [hillegal, illegalCommand, if_pos herr]

/-- Settles O8: the waiting word does nothing, and `endCommand` clears CMD and BUSY. -/
theorem recordedFaultIgnoresCommands : Obligations.RecordedFaultIgnoresCommands := by
  unfold Obligations.RecordedFaultIgnoresCommands
  intro s hreset hbusy herr hword
  rw [step_of_busy hreset hbusy, commandStep, onCmdWrite_of_err hword herr]
  rfl

/-! ## A command out of phase (R229) -/

/-- Settles O9: CLR is in every phase, so the command is one that the common checks stop at its phase. -/
theorem outOfPhaseFaults : Obligations.OutOfPhaseFaults := by
  unfold Obligations.OutOfPhaseFaults
  intro s i hplace herr hperm
  have hclr : i ≠ .clr := by
    rintro rfl
    cases hperm
  exact exec_outOfPhase hplace hclr herr hperm

end Sys2Proof.Machine

/-!
PROOF of the hazard obligation: the tree and the code table outlast every step but CLR and reset (R267). With ROOTV = 1 the phase is
neither COUNT nor HDR (R26), and in the other phases no command that writes NODE or CODE is legal.
-/

namespace Sys2Proof.Machine

/-! ## Commands once there is a tree -/

/-- What R267 keeps: the node store with NNODE and ROOT, and the code table. -/
def State.treeAndCode (s : State) : Vector Node 511 × Nat × Nat × Vector CodeEntry 256 := (s.nodes, s.nnode, s.root, s.code)

/-- From `s` to `t` the tree and the code table are the same, and are still there if they were. -/
structure State.KeepsTree (s t : State) : Prop where
  treeAndCode : t.treeAndCode = s.treeAndCode
  rootv : s.status.rootv = true → t.status.rootv = true

theorem State.KeepsTree.refl (s : State) : s.KeepsTree s := ⟨rfl, id⟩

theorem State.KeepsTree.trans {s t u : State} (h : s.KeepsTree t) (h' : t.KeepsTree u) : s.KeepsTree u :=
  ⟨h'.treeAndCode.trans h.treeAndCode, h'.rootv ∘ h.rootv⟩

theorem State.raise_keepsTree (s : State) (k : Cause) (n : Nat) : s.KeepsTree (s.raise k n) := ⟨rfl, id⟩

/-- In the phases from which a command makes a tree, ROOTV is 0 (R26, R27). -/
theorem Status.phase_of_rootv {st : Status} (h : st.flagsOk) (hrootv : st.rootv = true) :
    st.phase ≠ .count ∧ st.phase ≠ .hdr := by
  have hunset (hp : st.phase = .count ∨ st.phase = .hdr) : False := by
    simp [(Status.flags_unset h hp).1] at hrootv
  exact ⟨fun hp => hunset (.inl hp), fun hp => hunset (.inr hp)⟩

/-- Outside COUNT and HDR the legal commands write neither NODE nor CODE. -/
theorem commandBody_treeAndCode {i : Instr} {s t : State} (hcount : s.status.phase ≠ .count) (hhdr : s.status.phase ≠ .hdr)
    (hperm : s.status.permits i = true) (h : (commandBody i s).EndsIn t) : t.treeAndCode = s.treeAndCode := by
  cases i with
  | fadd sym | faddt | build | ldhdr | comp | decomp => exact absurd (by simpa [Status.permits] using hperm) hcount
  | deser => exact absurd (by simpa [Status.permits] using hperm) hhdr
  | cwlk sym => rw [cwlkBody_frame h]; rfl
  | sert => rw [sertBody_frame h]; rfl
  | enc sym => rw [encodeSymbol_frame sym h]; rfl
  | enct => rw [encodeText_frame _ h]; rfl
  | fin => rw [finBody_frame h]; rfl
  | dec1 => rw [dec1Body_frame h]; rfl
  | decall => rw [decallBody_frame h]; rfl
  | fcnt sym | rewind => rw [Res.endsIn_ok.1 h]; rfl
  | nop | clr | hdr v | leaf sym | internal | pbit b | padbit => rw [Res.endsIn_ok.1 h]

/-- No command's last line clears ROOTV. -/
theorem State.statusAfter_rootv {s : State} (h : s.status.rootv = true) (i : Instr) : (s.statusAfter i).rootv = true := by
  cases i with
  | build => rw [State.statusAfter]; split; exacts [h, rfl]
  | ldhdr => rw [State.statusAfter]; split; exacts [h, h]
  | deser => rfl
  | _ => exact h

/-- Wherever the pseudocode ends, STATUS is one of the two. -/
theorem Res.EndsStatus.status_eq {α : Type} {r : Res α} {before after : Status} {t : State}
    (hr : r.EndsStatus before after) (h : r.EndsIn t) : t.status = before ∨ t.status = after := by
  cases h with
  | ok a => exact .inr (hr.ok rfl)
  | raised k n => exact .inl (hr.raised rfl).2

theorem commandBody_rootv {i : Instr} {s t : State} (hcomp : i ≠ .comp) (hdecomp : i ≠ .decomp)
    (h : (commandBody i s).EndsIn t) (hrootv : s.status.rootv = true) : t.status.rootv = true := by
  rcases (commandBody_endsStatus hcomp hdecomp s).status_eq h with ht | ht <;> rw [ht]
  · exact hrootv
  · exact State.statusAfter_rootv hrootv i

theorem commandBody_keepsTree {i : Instr} {s t : State} (hcount : s.status.phase ≠ .count) (hhdr : s.status.phase ≠ .hdr)
    (hperm : s.status.permits i = true) (h : (commandBody i s).EndsIn t) : s.KeepsTree t := by
  refine ⟨commandBody_treeAndCode hcount hhdr hperm h, commandBody_rootv ?_ ?_ h⟩
  all_goals
    rintro rfl
    exact hcount (by simpa [Status.permits] using hperm)

theorem exec_command_keepsTree {i : Instr} {s t : State} (hcount : s.status.phase ≠ .count) (hhdr : s.status.phase ≠ .hdr)
    (hi : i.place = .command) (hclr : i ≠ .clr) (h : exec i s = .next t) : s.KeepsTree t := by
  rw [exec_command hi hclr] at h
  rcases runCommand_cases h with ⟨_, rfl⟩ | ⟨_, _, rfl⟩ | ⟨_, hperm, hb⟩ | ⟨_, hperm, k, n, u, hb, rfl⟩
  · exact .refl t
  · exact s.raise_keepsTree _ _
  · exact commandBody_keepsTree hcount hhdr hperm (.of_ok hb)
  · exact (commandBody_keepsTree hcount hhdr hperm (.of_raised hb)).trans (u.raise_keepsTree k n)

theorem onCmdWrite_keepsTree {w : CmdWord} {s t : State} (hcount : s.status.phase ≠ .count) (hhdr : s.status.phase ≠ .hdr)
    (hw : w ≠ 0x0100#16) (h : onCmdWrite w s = .next t) : s.KeepsTree t := by
  rcases onCmdWrite_cases w s with ⟨i, hdecode, hplace, hexec⟩ | ⟨_, hillegal⟩
  · rw [hexec] at h
    refine exec_command_keepsTree hcount hhdr hplace ?_ h
    rintro rfl
    exact hw (decodeCommand_eq_clr hdecode)
  · rw [hillegal] at h
    cases h
    rw [illegalCommand]
    split
    · exact .refl s
    · exact s.raise_keepsTree _ _

/-! ## The host and the step -/

theorem hostMove_keepsTree {m : HostMove} {s t : State} (hm : m ≠ .reset) (h : hostMove m s = .next t) : s.KeepsTree t := by
  rcases hostMove_cases h with ⟨number, value, rfl⟩ | rfl | ⟨a, v, _, _, rfl⟩ | ⟨v, rfl⟩ | ⟨hreset, _⟩
  · rcases writeReg_frame s number value with hw | hw | ⟨_, _, hw⟩ <;> rw [hw] <;> exact ⟨rfl, id⟩
  · exact .refl t
  · exact ⟨rfl, id⟩
  · exact ⟨rfl, id⟩
  · exact absurd hreset hm

/-- The host's turn, where it is no reset. -/
theorem hostStep_keepsTree {s t : State} (hr : s.resetNext = false) (h : hostStep s = .next t) : s.KeepsTree t := by
  rcases hostStep_cases h with ⟨_, rfl⟩ | ⟨m, rest, hm, h⟩
  · exact .refl t
  · have hmove : s.KeepsTree { s with hostMoves := rest } := ⟨rfl, id⟩
    refine hmove.trans (hostMove_keepsTree ?_ h)
    rintro rfl
    simp [State.resetNext, hm] at hr

/-- With the reader idle no stream record runs, so a step is the waiting command's or the host's. -/
theorem step_keepsTree {s t : State} (hs : s.StatusOk) (hrootv : s.status.rootv = true) (hd : s.discards = false)
    (h : step s = .next t) : s.KeepsTree t := by
  obtain ⟨hcount, hhdr⟩ := Status.phase_of_rootv hs.flags hrootv
  rw [State.discards, Bool.or_eq_false_iff] at hd
  obtain ⟨hreset, hclr⟩ := hd
  rcases step_cases h with ⟨rest, hm, _⟩ | ⟨_, hb, u, hu, rfl⟩ | ⟨_, _, p, b, ha, _⟩ | ⟨_, _, _, hh⟩
  · simp [State.resetNext, hm] at hreset
  · have hword : s.cmd ≠ 0x0100#16 := by simpa [hb] using hclr
    have hend : u.KeepsTree u.endCommand := ⟨rfl, id⟩
    exact (onCmdWrite_keepsTree hcount hhdr hword hu).trans hend
  · rw [awaited_idle hs.reader_idle] at ha
    cases ha
  · exact hostStep_keepsTree hreset hh

/-- Settles O30: a step that does not discard keeps the tree and the code table, whichever kind of step it is (`step_keepsTree`). -/
theorem treeAndCodeNeverChange : Obligations.TreeAndCodeNeverChange := by
  unfold Obligations.TreeAndCodeNeverChange
  intro s t hs hrootv h hd
  have hkeeps := step_keepsTree hs hrootv hd h
  obtain ⟨hnodes, hnnode, hroot, hcode⟩ := by simpa [State.treeAndCode] using hkeeps.treeAndCode
  exact ⟨hnodes, hnnode, hroot, hcode, hkeeps.rootv hrootv⟩

end Sys2Proof.Machine
